-- ==== Sys2Proof/Word.lean ====
section
/-!
DEFINITION. The word types of the DCP-BTU: the 32-bit word of HRS and of every block and matrix
element, the 8-bit sample of FMEM, and the 4-bit selector field of a command word.
-/

namespace Sys2Proof

/-- A 32-bit word: a command, a register of HRS, an element of a block or matrix register (`00_scope.md` R9). -/
abbrev Word := BitVec 32

/-- One 8-bit unsigned sample, one byte of FMEM (`10_state.md` R53). -/
abbrev Byte := BitVec 8

/-- A 4-bit selector field of a command word: `D`, `A`, `B`, or `IMM12[3:0]` of ENHF (`30_encoding.md` R81, R84). -/
abbrev Sel := BitVec 4

end Sys2Proof
end

