-- ==== Sys2Proof/Config.lean ====
section
/-!
DEFINITION. The parameters of `00_scope.md` R6: the constants the spec fixes, the values the platform
fixes, and the values the spec leaves free (the draws of R17).
-/

namespace Sys2Proof

/-- Bytes of the host register space HRS (`20_memory.md` R60). -/
def Config.hrsSize : Nat := 4096

/-- Channels of a frame: 0 luma, 1 chroma-U, 2 chroma-V (R6, `NCH`). -/
def Config.channels : Nat := 3

/-- The constant the `ID` register reads (`10_state.md` R43). -/
def Config.idWord : Word := 0x42545510#32

/-- 16.0, every entry of `QM0` after reset (`10_state.md` R24). -/
def Config.qm0Reset : Word := 0x41800000#32

/-- 4.0, every entry of `QM1` after reset (`10_state.md` R24). -/
def Config.qm1Reset : Word := 0x40800000#32

/-- The one legal CLRERR word (`30_encoding.md` R88). -/
def Config.clrerrWord : Word := 0x01000000#32

/-- The one legal SRESET word (`30_encoding.md` R88). -/
def Config.sresetWord : Word := 0x02000000#32

/-- The one legal LOPEN word (`45_combiner.md` R186). -/
def Config.lopenWord : Word := 0x41000000#32

/-- What a byte of FMEM that nothing has written reads as in `State.reset`. The spec gives a stable
draw (`10_state.md` R53). DESIGN CHOICE, unsafe: notes/assumptions/1. -/
def Config.fmemUnwritten : Byte := 0x00#8

/-- The platform's last FMEM address, `FMEM_SIZE - 1`: the spec leaves `FMEM_SIZE` OPEN between 1 and 2^32
(`00_scope.md` R6). No body: nothing more is known of it. DESIGN CHOICE, safe: notes/assumptions/2. -/
opaque Config.fmemLast : Fin (2 ^ 32)

/-- Where the host bus places HRS: OPEN, no rule depends on it (`20_memory.md` R60). -/
opaque Config.hrsBase : Nat

/-- Where the host bus places FMEM: OPEN, no rule depends on it (`20_memory.md` R60). -/
opaque Config.fmemBase : Nat

/-- The host bus address of an HRS offset (`20_memory.md` R60). -/
def Config.hrsBusAddress (off : Nat) : Nat := Config.hrsBase + off

/-- The host bus address of an FMEM byte (`20_memory.md` R60). -/
def Config.fmemBusAddress (a : Nat) : Nat := Config.fmemBase + a

/-- The free value of the `n`-th host read of an HRS word that returns a draw (`10_state.md` R22, R42;
`93_implementation_defined.md` I1, I3). No body: nothing is known of it. DESIGN CHOICE, safe for one run: notes/assumptions/3. -/
opaque Config.hostWordDraw : Nat → Word

/-- The free value of the `n`-th host read of an FMEM byte made while `BUSY = 1` (`10_state.md` R42).
No body: nothing is known of it. DESIGN CHOICE, safe for one run: notes/assumptions/3. -/
opaque Config.hostByteDraw : Nat → Byte

end Sys2Proof
end

