-- ==== Sys2Proof/Machine/State.lean ====
section
/-!
DEFINITION. The state of the DCP-BTU and of its environment (`10_state.md` R20), as plain data, the
events of the three kinds of agent (`00_scope.md` R7), the reasons a step can stop, and the state after
the reset input.
-/

namespace Sys2Proof.Machine

/-- The seven fault causes (`60_exceptions.md` R211). Their codes are `FaultCode.code`. -/
inductive FaultCode where
  | illegal
  | uninit
  | num
  | qm
  | geom
  | fmem
  | state
  deriving DecidableEq, Repr

/-- The fields of `STATUS` (`10_state.md` R35); its other bits are zero. -/
structure Status where
  busy : Bool
  err : Bool
  edge : Bool
  hzd : Bool
  errcode : BitVec 8
  deriving DecidableEq, Repr

/-- The states of the LSC (`10_state.md` R44, R45). `finalizing` is encoded and never reached. -/
inductive LscState where
  | idle
  | opening
  | streaming
  | finalizing
  | closed
  deriving DecidableEq, Repr

/-- The fields of `LSTAT` (`10_state.md` R45); its other bits are zero. -/
structure Lstat where
  state : LscState
  openerr : Bool
  eosa : Bool
  eosb : Bool
  faila : Bool
  failb : Bool
  deriving DecidableEq, Repr

/-- Stream metadata, width, height and the opaque frame-rate word (`10_state.md` R47, R50). -/
structure Meta where
  w : BitVec 16
  h : BitVec 16
  fps : Word
  deriving DecidableEq, Repr

/-- A Frame token: an opaque byte string (`10_state.md` R50). -/
abbrev FrameToken := List Byte

/-- An input port (`10_state.md` R50). `info` is the record's `meta`, of no account when not `present`. -/
structure InPort where
  present : Bool
  info : Meta
  frames : List FrameToken
  pos : Nat
  ready : Bool
  deriving DecidableEq, Repr

/-- An output port (`10_state.md` R51). `info` is the record's `meta`. -/
structure OutPort where
  opened : Bool
  info : Meta
  frames : List FrameToken
  deriving DecidableEq, Repr

/-- FMEM as the bytes that differ from `Config.fmemUnwritten`, addresses strictly rising. -/
abbrev Memory := List Host.Cell

/-- The width of a host access. HRS takes words only and FMEM bytes only (`20_memory.md` R62, R65). -/
inductive AccessWidth where
  | byte
  | half
  | word
  deriving DecidableEq, Repr

/-- Which input port a producer serves. -/
inductive InputId where
  | a
  | b
  deriving DecidableEq, Repr

/-- One step of one agent (`00_scope.md` R7). -/
inductive Event where
  /-- The unit takes its turn at the pending command. -/
  | unit
  /-- The host reads HRS (`20_memory.md` R62). -/
  | hrsRead (width : AccessWidth) (off : Nat)
  /-- The host writes HRS. -/
  | hrsWrite (width : AccessWidth) (off : Nat) (w : Word)
  /-- The host reads FMEM (`20_memory.md` R65). -/
  | fmemRead (width : AccessWidth) (a : Nat)
  /-- The host writes FMEM. -/
  | fmemWrite (width : AccessWidth) (a : Nat) (v : Byte)
  /-- The reset input; `draws` is what FMEM holds after it, any bytes at all (`10_state.md` R53, R56). -/
  | resetInput (draws : List Host.Cell)
  /-- A producer sets `ready` (`70_reset_and_hazards.md` R252). -/
  | producerReady (port : InputId)
  /-- The environment replaces the five port records (`10_state.md` R52). -/
  | attach (a b : InPort) (l h f : OutPort)
  deriving DecidableEq, Repr

/-- The DCP-BTU, its environment, the platform's parameter, and the model's own three last fields. -/
structure State where
  /-- `BR[k][e]`, the block registers (R21). -/
  br : Vector (Vector Word 64) 4
  /-- `BRV[k][e]`, their valid bits (R22). -/
  brv : Vector (Vector Bool 64) 4
  /-- `QM[k][e]`, the matrix registers (R24). -/
  qm : Vector (Vector Word 64) 2
  /-- `DIM` (R31). -/
  dim : Word
  /-- `CUR` (R32). -/
  cur : Word
  /-- `FB0` to `FB3` (R33). -/
  fb : Vector Word 4
  /-- `BDEPTH` (R34). -/
  bdepth : Word
  /-- `STATUS` (R35 to R39). -/
  status : Status
  /-- `ERRINFO` (R40). -/
  errinfo : Word
  /-- `PEND`, the hidden pending command (R41). -/
  pend : Option Word
  /-- `LSTAT` (R45). -/
  lstat : Lstat
  /-- `LCOUNT` (R46). -/
  lcount : Word
  /-- `INA_DIM` (R47). -/
  inaDim : Word
  /-- `INA_FPS` (R47). -/
  inaFps : Word
  /-- `INB_DIM` (R47). -/
  inbDim : Word
  /-- `INB_FPS` (R47). -/
  inbFps : Word
  /-- `FMEM` (R53). -/
  fmem : Memory
  /-- The model's own: the platform's last FMEM address, `FMEM_SIZE - 1` (`00_scope.md` R6); no step changes
  it. notes/assumptions/2. -/
  fmemLast : Fin (2 ^ 32)
  /-- Input port `INA`, the base stream (R50). -/
  ina : InPort
  /-- Input port `INB`, the enhanced stream (R50). -/
  inb : InPort
  /-- Output port `OUTL`, low-quality (R51). -/
  outl : OutPort
  /-- Output port `OUTH`, high-quality (R51). -/
  outh : OutPort
  /-- Output port `OUTF`, final (R51). -/
  outf : OutPort
  /-- The model's own: the steps the agents take next, first first; when it is empty the unit has every
  turn. It is the interleaving the spec leaves free (R7, I23). notes/assumptions/4. -/
  agenda : List Event
  /-- The model's own: what the host's last read returned. notes/assumptions/5. -/
  rdata : Word
  /-- The model's own: how many draws host reads have taken. notes/assumptions/3. -/
  draws : Nat
  deriving DecidableEq, Repr

/-- The reasons a step stops with a fault: none. Every fault of this hardware is a recorded one, after
which the machine goes on (`60_exceptions.md` R210, R214): it is a next state here. An access to an FMEM
address that does not exist is refused, as `20_memory.md` R65 says. Safe. -/
inductive Fault where
  deriving DecidableEq, Repr

/-- The reasons a step is refused: the situations the spec gives no meaning (`00_scope.md` R8). -/
inductive Refusal where
  /-- Raised by `exec` for a command without a meaning yet; none is left. Safe. -/
  | notModelled (mnemonic : String)
  /-- Raised by a host access to HRS that is not an aligned word below 4096 (`20_memory.md` R63). Safe. -/
  | hrsAccess
  /-- Raised by a host access to FMEM that is not one byte below `FMEM_SIZE` (`20_memory.md` R65,
  `70_reset_and_hazards.md` R254). Safe. -/
  | fmemAccess
  /-- Raised when the environment replaces the port records during an LSC run or while `BUSY = 1`
  (`10_state.md` R52, `93_implementation_defined.md` I12). Safe. -/
  | portsReplaced
  deriving DecidableEq, Repr

/-- `STATUS` after reset (R35). -/
def Status.reset : Status := ⟨false, false, false, false, 0⟩

/-- `LSTAT` after reset (R45). -/
def Lstat.reset : Lstat := ⟨.idle, false, false, false, false, false⟩

/-- Metadata of all zeros. -/
def Meta.zero : Meta := ⟨0, 0, 0⟩

/-- An input port with nothing attached. -/
def InPort.detached : InPort := ⟨false, Meta.zero, [], 0, false⟩

/-- An output port with nothing written. -/
def OutPort.detached : OutPort := ⟨false, Meta.zero, []⟩

/-- The machine right after the reset input (`10_state.md` R55, `70_reset_and_hazards.md` R241). The
elements of `br`, `rdata`, `agenda` and the ports are the model's choices, and `fmemLast` is the platform's
parameter: notes/assumptions. -/
def State.reset : State where
  br := Vector.replicate 4 (Vector.replicate 64 0)
  brv := Vector.replicate 4 (Vector.replicate 64 false)
  qm := #v[Vector.replicate 64 Config.qm0Reset, Vector.replicate 64 Config.qm1Reset]
  dim := 0
  cur := 0
  fb := Vector.replicate 4 0
  bdepth := 0
  status := Status.reset
  errinfo := 0
  pend := none
  lstat := Lstat.reset
  lcount := 0
  inaDim := 0
  inaFps := 0
  inbDim := 0
  inbFps := 0
  fmem := []
  fmemLast := Config.fmemLast
  ina := InPort.detached
  inb := InPort.detached
  outl := OutPort.detached
  outh := OutPort.detached
  outf := OutPort.detached
  agenda := []
  rdata := 0
  draws := 0

end Sys2Proof.Machine
end

