-- ==== Sys2Proof/Machine/Flags.lean ====
section
/-!
DEFINITION. The status words of the DCP-BTU: `STATUS` and `LSTAT` as the host reads them, the fault
codes, and the updates of their bits (`10_state.md` R35 to R39, R45).
-/

namespace Sys2Proof.Machine

/-- One bit of a status word. -/
def flagBit (b : Bool) : BitVec 1 := if b then 1#1 else 0#1

/-- The `ERRCODE` of a fault (`60_exceptions.md` R211). -/
def FaultCode.code : FaultCode → BitVec 8
  | .illegal => 0x01#8
  | .uninit => 0x02#8
  | .num => 0x03#8
  | .qm => 0x04#8
  | .geom => 0x05#8
  | .fmem => 0x06#8
  | .state => 0x07#8

/-- `STATUS` as the host reads it (`10_state.md` R35). -/
def Status.word (f : Status) : Word :=
  0#16 ++ f.errcode ++ 0#4 ++ flagBit f.hzd ++ flagBit f.edge ++ flagBit f.err ++ flagBit f.busy

/-- The encoding of `LSTAT.STATE` (`10_state.md` R45). -/
def LscState.code : LscState → BitVec 3
  | .idle => 0
  | .opening => 1
  | .streaming => 2
  | .finalizing => 3
  | .closed => 4

/-- `LSTAT` as the host reads it (`10_state.md` R45). -/
def Lstat.word (f : Lstat) : Word :=
  0#22 ++ flagBit f.failb ++ flagBit f.faila ++ 0#1 ++ flagBit f.eosb ++ flagBit f.eosa ++
    flagBit f.openerr ++ 0#1 ++ f.state.code

/-- `BUSY` cleared: the command has completed (`10_state.md` R41). -/
def Status.idle (f : Status) : Status := { f with busy := false }

/-- `BUSY` set: a command is pending (`10_state.md` R41). -/
def Status.accepted (f : Status) : Status := { f with busy := true }

/-- `HZD` set: a host write was ignored (`10_state.md` R39, R42). -/
def Status.hazard (f : Status) : Status := { f with hzd := true }

/-- The fault record in `STATUS`; `BUSY` is cleared with it (`60_exceptions.md` R214). -/
def Status.faulted (f : Status) (c : FaultCode) : Status :=
  { f with err := true, errcode := c.code, busy := false }

/-- The bits CLRERR clears (`46_system.md` R201). -/
def Status.cleared (f : Status) : Status :=
  { f with err := false, errcode := 0, edge := false, hzd := false }

/-- The `EdgeBlockSkipped` warning: set when a dimension is not a multiple of 8, never cleared here
(`10_state.md` R38, `43_base_frame.md` R152). -/
def Status.edged (f : Status) (w h : Nat) : Status :=
  { f with edge := f.edge || decide (w % 8 ≠ 0) || decide (h % 8 ≠ 0) }

end Sys2Proof.Machine
end

