-- ==== Sys2Proof/Machine/Binary32.lean ====
section
/-!
DEFINITION. The numbers of `00_scope.md` R10 to R12, exactly. Every finite binary32 value is an integer
multiple of 2^-149, so a value is held as that integer: `v : Int` stands for the rational `v * 2^-149`.
Products, quotients and sums are formed exactly as a fraction of integers and rounded once by `fl32`.
-/

namespace Sys2Proof.Machine

/-- 1.0 in units of 2^-149. -/
def one32 : Nat := 2 ^ 149

/-- 2^128 in units of 2^-149: where `OVERFLOW` begins (R11). -/
def limit32 : Nat := 2 ^ 277

/-- The exponent field `E`, bits 30:23 (R10). -/
def expField (b : Word) : Nat := (b.extractLsb' 23 8).toNat

/-- The fraction field `M`, bits 22:0 (R10). -/
def fracField (b : Word) : Nat := (b.extractLsb' 0 23).toNat

/-- `finite32(b)`: neither an infinity nor a NaN (R10). -/
def finite32 (b : Word) : Bool := expField b != 255

/-- The magnitude of a finite word, in units of 2^-149: `M` when `E = 0`, otherwise
`(2^23 + M) * 2^(E - 1)` (R10). -/
def magnitude32 (b : Word) : Nat :=
  if expField b = 0 then fracField b else (2 ^ 23 + fracField b) * 2 ^ (expField b - 1)

/-- `dec32(b)`: the value of a finite word; both zeros give 0 (R10). -/
def dec32 (b : Word) : Int :=
  if b.getLsbD 31 then -(magnitude32 b : Int) else (magnitude32 b : Int)

/-- How far the spacing of binary32 values at magnitude `n` lies above 2^-149, as a power of two: the
`e' - 23` of R11, counted from the subnormal spacing. -/
def scale32 (n : Nat) : Nat := n.log2 - 23

/-- Membership of `F32` (R10): below 2^128 and a multiple of the spacing at its magnitude. -/
def inF32 (v : Int) : Bool :=
  decide (v.natAbs < limit32) && decide (2 ^ scale32 v.natAbs ∣ v.natAbs)

/-- The exponent and fraction of a magnitude in `F32`, as bits 30:0 of its word. -/
def encMagnitude32 (n : Nat) : Nat :=
  if n < 2 ^ 23 then n else scale32 n * 2 ^ 23 + n / 2 ^ scale32 n

/-- `enc32(v)`: the word of a value in `F32`; 0 is `0x00000000`, never `0x80000000` (R10). -/
def enc32 (v : Int) : Word :=
  BitVec.ofNat 32 ((if v < 0 then 2 ^ 31 else 0) + encMagnitude32 v.natAbs)

/-- Round the rational `num / den` to the nearest integer, ties to even: `rne_int` of R12 on an exact
fraction. -/
def rneDiv (num : Int) (den : Nat) : Int :=
  let k := num / (den : Int)
  let r := num % (den : Int)
  if 2 * r > den ∨ (2 * r = den ∧ k % 2 = 1) then k + 1 else k

/-- `fl32(q)` for `q = num / den` in units of 2^-149: the nearest member of `F32`, ties to even, or
`none` for `OVERFLOW` (R11). The spacing at `q` is `2^k` units. Irreducible so that no proof evaluates it
by accident; `fl32_eq_some` and `fl32_eq_none` say what it answers. -/
@[irreducible] def fl32 (num : Int) (den : Nat) : Option Int :=
  let a := num.natAbs
  let k := scale32 (a / den)
  let v := rneDiv a (den * 2 ^ k) * 2 ^ k
  if v ≥ limit32 then none else some (if num < 0 then -v else v)

/-- `rne_int(v)` of a value, as an integer (R12). -/
def rneInt (v : Int) : Int := rneDiv v one32

/-- The value of an integer. -/
def ofInteger (n : Int) : Int := n * one32

/-- `clamp(v) = min(max(v, 0), 255)` (R12). -/
def clamp (v : Int) : Int := min (max v 0) (ofInteger 255)

/-- `to_u8(v) = rne_int(clamp(v))` as a byte (R12). -/
def toU8 (v : Int) : Byte := BitVec.ofInt 8 (rneInt (clamp v))

/-- `from_u8(n)`, exact (R12). -/
def fromU8 (n : Byte) : Int := ofInteger n.toNat

/-- One lane of QUANT: the quotient rounded to binary32, then to an integer (`41_tqu.md` R120). -/
def quantLane (x m : Int) : Option Int :=
  match fl32 (x * one32) m.toNat with
  | none => none
  | some t => some (ofInteger (rneInt t))

/-- One lane of DEQUANT: the exact product rounded once (`41_tqu.md` R121). -/
def dequantLane (x m : Int) : Option Int := fl32 (x * m) one32

/-- One lane of SUB: the exact difference rounded once (`44_residual_enh.md` R160). -/
def subLane (x z : Int) : Option Int := fl32 (x - z) 1

/-- One lane of ADD: the exact sum rounded once (`44_residual_enh.md` R161). -/
def addLane (x z : Int) : Option Int := fl32 (x + z) 1

end Sys2Proof.Machine
end

