-- ==== Sys2Proof/Machine/Kernel.lean ====
section
/-!
DEFINITION. Blocks as 64 values (`00_scope.md` R13), the reference transform kernel `XF_REF`
(`41_tqu.md` R114 to R116), the 64-lane operations (R124) and the bit-depth estimate
(`44_residual_enh.md` R164).
-/

namespace Sys2Proof.Machine

/-- 64 values in row-major order, element `e = 8 * r + c` (`00_scope.md` R13). -/
abbrev Block := Vector Int 64

/-- The row of an element. -/
def rowOf (e : Fin 64) : Fin 8 := ⟨e / 8, by omega⟩

/-- The column of an element. -/
def colOf (e : Fin 64) : Fin 8 := ⟨e % 8, by omega⟩

/-- `X[r][c]`. -/
def at8 (X : Block) (r c : Fin 8) : Int := X[8 * r.val + c.val]

/-- All 64 results, unless one is `OVERFLOW` (`41_tqu.md` R111). Irreducible so that no proof evaluates 64
results by accident; `settle_eq_some` says what it answers. -/
@[irreducible] def settle (Y : Vector (Option Int) 64) : Option Block :=
  if ∀ e : Fin 64, Y[e].isSome then some (Vector.ofFn fun e : Fin 64 => Y[e].getD 0) else none

/-- The words `G(1)` to `G(7)` (`41_tqu.md` R114). -/
def gWord : Nat → Word
  | 1 => 0x3EFB14BE#32
  | 2 => 0x3EEC835E#32
  | 3 => 0x3ED4DB31#32
  | 4 => 0x3EB504F3#32
  | 5 => 0x3E8E39DA#32
  | 6 => 0x3E43EF15#32
  | 7 => 0x3DC7C5C2#32
  | _ => 0x00000000#32

/-- The sign and index `j` of each entry of the coefficient table (`41_tqu.md` R115). -/
def coefIndex : Vector (Vector Int 8) 8 :=
  #v[#v[4, 4, 4, 4, 4, 4, 4, 4],
     #v[1, 3, 5, 7, -7, -5, -3, -1],
     #v[2, 6, -6, -2, -2, -6, 6, 2],
     #v[3, -7, -1, -5, 5, 1, 7, -3],
     #v[4, -4, -4, 4, 4, -4, -4, 4],
     #v[5, -1, 7, 3, -3, -7, 1, -5],
     #v[6, -2, 2, -6, -6, 2, -2, 6],
     #v[7, -5, 3, -1, 1, -3, 5, -7]]

/-- `C[k][n]`, the binary32 image of the orthonormal DCT-II (`41_tqu.md` R115). -/
def coef (k n : Fin 8) : Int :=
  let j := coefIndex[k][n]
  if j < 0 then -dec32 (gWord j.natAbs) else dec32 (gWord j.natAbs)

/-- `dot8(a, b)`: eight exact products, their exact sum, one rounding (`41_tqu.md` R116). -/
def dot8 (a b : Fin 8 → Int) : Option Int :=
  fl32 (a 0 * b 0 + a 1 * b 1 + a 2 * b 2 + a 3 * b 3 + a 4 * b 4 + a 5 * b 5 + a 6 * b 6 + a 7 * b 7)
    one32

/-- The row pass of the forward transform: `T[r][v] = dot8(C[v], X[r])` (`41_tqu.md` R116). -/
def fdctRows (X : Block) : Option Block :=
  settle (Vector.ofFn fun e => dot8 (fun n => coef (colOf e) n) (fun n => at8 X (rowOf e) n))

/-- The column pass of the forward transform: `Y[u][v] = dot8(C[u], T[·][v])` (`41_tqu.md` R116). -/
def fdctCols (T : Block) : Option Block :=
  settle (Vector.ofFn fun e => dot8 (fun n => coef (rowOf e) n) (fun n => at8 T n (colOf e)))

/-- `XF_REF.fdct`: rows, then columns; `none` is `OVERFLOW` (`41_tqu.md` R116). -/
def fdct (X : Block) : Option Block := do
  let T ← fdctRows X
  fdctCols T

/-- The column pass of the inverse transform: `T[r][v] = dot8(C[·][r], Y[·][v])` (`41_tqu.md` R116). -/
def idctCols (Y : Block) : Option Block :=
  settle (Vector.ofFn fun e => dot8 (fun n => coef n (rowOf e)) (fun n => at8 Y n (colOf e)))

/-- The row pass of the inverse transform: `X[r][c] = dot8(C[·][c], T[r])` (`41_tqu.md` R116). -/
def idctRows (T : Block) : Option Block :=
  settle (Vector.ofFn fun e => dot8 (fun n => coef n (colOf e)) (fun n => at8 T (rowOf e) n))

/-- `XF_REF.idct`: columns, then rows; `none` is `OVERFLOW` (`41_tqu.md` R116). -/
def idct (Y : Block) : Option Block := do
  let T ← idctCols Y
  idctRows T

/-- A 64-lane operation on two blocks, or a block and a matrix: lane `e` depends on lane `e` alone, and an
overflow in any lane cancels all (`41_tqu.md` R124). -/
def lanes (f : Int → Int → Option Int) (X Z : Block) : Option Block :=
  settle (Vector.ofFn fun e : Fin 64 => f X[e] Z[e])

/-- QUANT on a block (`41_tqu.md` R120). -/
def quantBlock (X M : Block) : Option Block := lanes quantLane X M

/-- DEQUANT on a block (`41_tqu.md` R121). -/
def dequantBlock (X M : Block) : Option Block := lanes dequantLane X M

/-- SUB on two blocks (`44_residual_enh.md` R160). -/
def subBlock (X Z : Block) : Option Block := lanes subLane X Z

/-- ADD on two blocks (`44_residual_enh.md` R161). -/
def addBlock (X Z : Block) : Option Block := lanes addLane X Z

/-- CLIP on a block; no result overflows (`41_tqu.md` R122). -/
def clipBlock (X : Block) : Block := Vector.ofFn fun e : Fin 64 => clamp X[e]

/-- The largest magnitude of a block. -/
def maxMagnitude (X : Block) : Nat := X.toList.foldl (fun m x => max m x.natAbs) 0

/-- `bitdepth(X)`: 0 for the zero block, otherwise `floor(log2(max)) + 1`, exact (`44_residual_enh.md` R164). -/
def bitdepth (X : Block) : Int :=
  if maxMagnitude X = 0 then 0 else ((maxMagnitude X).log2 : Int) - 149 + 1

/-- Forward transform, quantize, dequantize, inverse transform: the block path of BASEF
(`43_base_frame.md` R152). -/
def basePath (M X : Block) : Option Block := do
  let Y ← fdct X
  let Q ← quantBlock Y M
  let D ← dequantBlock Q M
  idct D

/-- The levels and the unrounded sum of one block of ENHF: residual, forward transform, quantize,
dequantize, inverse transform, add to the base (`44_residual_enh.md` R170). -/
def enhPath (M O B : Block) : Option (Block × Block) := do
  let R ← subBlock O B
  let Y ← fdct R
  let Q ← quantBlock Y M
  let D ← dequantBlock Q M
  let F ← idct D
  let E ← addBlock B F
  some (Q, E)

end Sys2Proof.Machine
end

