-- ==== Sys2Proof/Machine/Ops.lean ====
section
/-!
DEFINITION. The named operations over FMEM, the registers and the stream ports, the end of a command,
taking a fault and returning from it, and the reset operation.
-/

namespace Sys2Proof.Machine

/-- `FMEM_SIZE`, from 1 to 2^32 on every platform (`00_scope.md` R6). -/
def State.fmemSize (s : State) : Nat := s.fmemLast.val + 1

/-- The canonical form of FMEM: addresses strictly rising, no entry that holds what an unlisted address
reads as. -/
def Memory.wf : Memory → Bool
  | [] => true
  | [(_, v)] => v != Config.fmemUnwritten
  | (a, v) :: (b, u) :: m => v != Config.fmemUnwritten && decide (a < b) && Memory.wf ((b, u) :: m)

/-- `MemRead(a, 1)` (`20_memory.md` R65). -/
def Memory.read (m : Memory) (a : Nat) : Byte :=
  match m with
  | [] => Config.fmemUnwritten
  | (b, v) :: rest => if a = b then v else Memory.read rest a

/-- Put a cell before the rest, unless it holds what an unlisted address reads as. -/
def Memory.putCell (a : Nat) (v : Byte) (rest : Memory) : Memory :=
  if v = Config.fmemUnwritten then rest else (a, v) :: rest

/-- `MemWrite(a, 1, v)` (`20_memory.md` R65), keeping the canonical form. -/
def Memory.write (m : Memory) (a : Nat) (v : Byte) : Memory :=
  match m with
  | [] => Memory.putCell a v []
  | (b, u) :: rest =>
    if a < b then Memory.putCell a v ((b, u) :: rest)
    else if a = b then Memory.putCell a v rest
    else (b, u) :: Memory.write rest a v

/-- A list of writes, first first. -/
def Memory.writeAll (m : Memory) (cells : List Host.Cell) : Memory :=
  cells.foldl (fun m c => Memory.write m c.1 c.2) m

/-- `ERRINFO <- PEND`: the word in `PEND`, 0 when there is none (`60_exceptions.md` R214). -/
def State.pendWord (s : State) : Word := s.pend.getD 0

/-- Every command ends with `PEND <- none ; STATUS.BUSY <- 0` (`10_state.md` R41). -/
def State.complete (s : State) : State := { s with pend := none, status := s.status.idle }

/-- Fault entry: the whole effect of `raise Fault(code)` (`60_exceptions.md` R214). -/
def State.takeFault (s : State) (c : FaultCode) : State :=
  { s with status := s.status.faulted c, errinfo := s.pendWord, pend := none }

/-- Return from the fault state: what CLRERR clears (`46_system.md` R201, `60_exceptions.md` R217). -/
def State.clearFault (s : State) : State := { s with status := s.status.cleared, errinfo := 0 }

/-- The end of a command's one step: it completes with what its rule wrote, or it faults with no other
effect (`00_scope.md` R8). -/
def State.conclude (s : State) (r : Except FaultCode State) : Host.Outcome State Fault Refusal :=
  match r with
  | .ok t => .next t.complete
  | .error c => .next (s.takeFault c)

/-- The reset operation of `10_state.md` R56: every state element of R55 at its value; FMEM, the ports,
the platform's parameter and the model's own fields are kept. SRESET is this operation. -/
def State.resetOperation (s : State) : State :=
  { s with
    br := State.reset.br
    brv := State.reset.brv
    qm := State.reset.qm
    dim := State.reset.dim
    cur := State.reset.cur
    fb := State.reset.fb
    bdepth := State.reset.bdepth
    status := State.reset.status
    errinfo := State.reset.errinfo
    pend := State.reset.pend
    lstat := State.reset.lstat
    lcount := State.reset.lcount
    inaDim := State.reset.inaDim
    inaFps := State.reset.inaFps
    inbDim := State.reset.inbDim
    inbFps := State.reset.inbFps }

/-- The reset input: the reset operation, and every byte of FMEM becomes a draw (`10_state.md` R53,
`70_reset_and_hazards.md` R240). -/
def State.resetInput (s : State) (drawn : List Host.Cell) : State :=
  { s.resetOperation with
    fmem := Memory.writeAll [] (drawn.filter fun c => decide (c.1 < s.fmemSize)) }

/-- `BR[k]` and its valid bits written whole by a command (`41_tqu.md` R111). -/
def State.writeBlock (s : State) (k : Fin 4) (Y : Block) : State :=
  { s with
    br := s.br.set k (Vector.ofFn fun e : Fin 64 => enc32 Y[e])
    brv := s.brv.set k (Vector.replicate 64 true) }

/-- One element of a block register written by the host, and its valid bit set (`20_memory.md` R64). -/
def State.writeElement (s : State) (k : Fin 4) (e : Fin 64) (w : Word) : State :=
  { s with br := s.br.set k (s.br[k].set e w), brv := s.brv.set k (s.brv[k].set e true) }

/-- One entry of a matrix register written by the host (`20_memory.md` R64). -/
def State.writeEntry (s : State) (k : Fin 2) (e : Fin 64) (w : Word) : State :=
  { s with qm := s.qm.set k (s.qm[k].set e w) }

/-- All 64 entries of a matrix register set to one word (`40_config.md` R101). -/
def State.fillMatrix (s : State) (k : Fin 2) (w : Word) : State :=
  { s with qm := s.qm.set k (Vector.replicate 64 w) }

/-- The fields of `CUR` that exist: `BX`, `BY` and `CH`; the other bits are zero (`10_state.md` R32). -/
def curMask : Word := 0xDFFF1FFF#32

/-- A token read from an input port: a Frame, or `none` for `EOS` (`10_state.md` R50). -/
def InPort.token (p : InPort) : Option FrameToken := p.frames[p.pos]?

/-- The port after one read: one token consumed, `ready` cleared (`10_state.md` R50). -/
def InPort.consumed (p : InPort) : InPort := { p with pos := p.pos + 1, ready := false }

/-- An output port opened with the metadata of a stream; its frames are left (`45_combiner.md` R186). -/
def OutPort.openWith (p : OutPort) (i : Meta) : OutPort := { p with opened := true, info := i }

/-- A Frame appended to an output port (`10_state.md` R51). -/
def OutPort.append (p : OutPort) (t : FrameToken) : OutPort := { p with frames := p.frames ++ [t] }

/-- An output port closed (`45_combiner.md` R189). -/
def OutPort.close (p : OutPort) : OutPort := { p with opened := false }

/-- The record of an input port at attachment: no token consumed yet (`10_state.md` R50). -/
def InPort.attached (p : InPort) : InPort := { p with pos := 0 }

/-- The record of an output port at attachment: not opened, no frames (`10_state.md` R51). -/
def OutPort.attached (p : OutPort) : OutPort := { p with opened := false, frames := [] }

/-- The `IN*_DIM` word of metadata: height above width (`10_state.md` R47). -/
def Meta.dimWord (i : Meta) : Word := i.h ++ i.w

end Sys2Proof.Machine
end

