-- ==== Sys2Proof/Machine/Operands.lean ====
section
/-!
DEFINITION. The operand forms of the commands: selectors (`30_encoding.md` R82), block and matrix
sources (`41_tqu.md` R110 to R112), the geometry and cursor fields, and the addresses of frame samples with
their checks (`20_memory.md` R67, R68; `42_block_io.md` R140, R141; `43_base_frame.md` R150, R151).
-/

namespace Sys2Proof.Machine

/-- The block register a selector names, or `E_ILLEGAL`. -/
def blockSel (r : Sel) : Except FaultCode (Fin 4) :=
  if h : r.toNat < 4 then .ok ⟨r.toNat, h⟩ else .error .illegal

/-- The matrix register a selector names, or `E_ILLEGAL`. -/
def matrixSel (q : Sel) : Except FaultCode (Fin 2) :=
  if h : q.toNat < 2 then .ok ⟨q.toNat, h⟩ else .error .illegal

/-- The frame slot a selector names, or `E_ILLEGAL`. -/
def slotSel (f : Sel) : Except FaultCode (Fin 4) :=
  if h : f.toNat < 4 then .ok ⟨f.toNat, h⟩ else .error .illegal

/-- Every valid bit of `BR[k]` is 1. -/
def State.blockValid (s : State) (k : Fin 4) : Bool := decide (∀ e : Fin 64, s.brv[k][e] = true)

/-- Every element of `BR[k]` is finite. -/
def State.blockFinite (s : State) (k : Fin 4) : Bool := decide (∀ e : Fin 64, finite32 s.br[k][e] = true)

/-- The 64 values of `BR[k]`. -/
def State.blockValues (s : State) (k : Fin 4) : Block := Vector.ofFn fun e : Fin 64 => dec32 s.br[k][e]

/-- `srcblock(k)` (`41_tqu.md` R110): `E_UNINIT` before `E_NUM`. -/
def State.srcBlock (s : State) (k : Fin 4) : Except FaultCode Block :=
  if s.blockValid k = false then .error .uninit
  else if s.blockFinite k = false then .error .num
  else .ok (s.blockValues k)

/-- Results of a command, or `E_NUM` when one is `OVERFLOW` (`41_tqu.md` R111). -/
def settled {α : Type} : Option α → Except FaultCode α
  | none => .error .num
  | some Y => .ok Y

/-- Every entry of `QM[k]` is finite and positive. -/
def State.matrixLegal (s : State) (k : Fin 2) : Bool :=
  decide (∀ e : Fin 64, finite32 s.qm[k][e] = true ∧ 0 < dec32 s.qm[k][e])

/-- The 64 values of `QM[k]`. -/
def State.matrixValues (s : State) (k : Fin 2) : Block := Vector.ofFn fun e : Fin 64 => dec32 s.qm[k][e]

/-- `matrix(k)` (`41_tqu.md` R112). -/
def State.matrix (s : State) (k : Fin 2) : Except FaultCode Block :=
  if s.matrixLegal k = false then .error .qm else .ok (s.matrixValues k)

/-- `DIM.W`, bits 15:0 (`10_state.md` R31). -/
def State.width (s : State) : Nat := (s.dim.extractLsb' 0 16).toNat

/-- `DIM.H`, bits 31:16 (`10_state.md` R31). -/
def State.height (s : State) : Nat := (s.dim.extractLsb' 16 16).toNat

/-- `CUR.BX`, bits 12:0 (`10_state.md` R32). -/
def State.curBx (s : State) : Nat := (s.cur.extractLsb' 0 13).toNat

/-- `CUR.BY`, bits 28:16 (`10_state.md` R32). -/
def State.curBy (s : State) : Nat := (s.cur.extractLsb' 16 13).toNat

/-- `CUR.CH`, bits 31:30 (`10_state.md` R32). -/
def State.curCh (s : State) : Nat := (s.cur.extractLsb' 30 2).toNat

/-- The FMEM address of the first byte of frame slot `k` (`10_state.md` R33). -/
def State.slotBase (s : State) (k : Fin 4) : Nat := s.fb[k].toNat

/-- The bytes of a frame: three planes of `W * H` (`20_memory.md` R67). -/
def State.frameBytes (s : State) : Nat := Config.channels * s.width * s.height

/-- `addr(k, ch, y, x)`, unbounded (`20_memory.md` R67). -/
def State.addr (s : State) (k : Fin 4) (ch y x : Nat) : Nat :=
  s.slotBase k + (ch * s.height + y) * s.width + x

/-- The address of element `e` of the full block at block row `byy`, block column `bx` of channel `ch`
(`42_block_io.md` R140). -/
def State.ea (s : State) (k : Fin 4) (ch byy bx : Nat) (e : Fin 64) : Nat :=
  s.addr k ch (8 * byy + e / 8) (8 * bx + e % 8)

/-- The 64 samples of a full block of a frame slot, as values (`42_block_io.md` R142). -/
def State.loadBlock (s : State) (k : Fin 4) (ch byy bx : Nat) : Block :=
  Vector.ofFn fun e : Fin 64 => fromU8 (Memory.read s.fmem (s.ea k ch byy bx e))

/-- The 64 bytes a block stores to a full block of a frame slot, each clamped and rounded
(`42_block_io.md` R143). -/
def State.storeCells (s : State) (k : Fin 4) (ch byy bx : Nat) (X : Block) : List Host.Cell :=
  (List.finRange 64).map fun e => (s.ea k ch byy bx e, toU8 X[e])

/-- `blockcheck(k)`, in order (`42_block_io.md` R141). -/
def State.blockCheck (s : State) (k : Fin 4) : Except FaultCode Unit :=
  if s.width = 0 ∨ s.height = 0 then .error .geom
  else if s.curCh = 3 then .error .geom
  else if 8 * s.curBx + 8 > s.width ∨ 8 * s.curBy + 8 > s.height then .error .geom
  else if s.slotBase k + s.frameBytes > s.fmemSize then .error .fmem
  else .ok ()

/-- The slot does not fit in FMEM (`20_memory.md` R68). -/
def State.slotOverruns (s : State) (k : Fin 4) : Bool := decide (s.slotBase k + s.frameBytes > s.fmemSize)

/-- Two slots with different bases whose byte ranges intersect (`20_memory.md` R68). -/
def State.slotsClash (s : State) (i j : Fin 4) : Bool :=
  decide (s.slotBase i ≠ s.slotBase j ∧ s.slotBase i < s.slotBase j + s.frameBytes ∧
    s.slotBase j < s.slotBase i + s.frameBytes)

/-- `framecheck(dst, srcs)`, in order (`43_base_frame.md` R150). -/
def State.frameCheck (s : State) (dst : Fin 4) (srcs : List (Fin 4)) : Except FaultCode Unit :=
  if s.width = 0 ∨ s.height = 0 then .error .geom
  else if (dst :: srcs).any s.slotOverruns then .error .fmem
  else if srcs.any (fun k => s.slotsClash k dst) then .error .fmem
  else .ok ()

/-- `NBX` (`43_base_frame.md` R151). -/
def State.blockCols (s : State) : Nat := s.width / 8

/-- `NBY` (`43_base_frame.md` R151). -/
def State.blockRows (s : State) : Nat := s.height / 8

/-- A full block of a frame: channel, block row, block column. -/
structure BlockPos where
  ch : Nat
  row : Nat
  col : Nat
  deriving DecidableEq, Repr

/-- The block walk: channel, then block row, then block column (`43_base_frame.md` R151). -/
def State.blockWalk (s : State) : List BlockPos :=
  (List.range Config.channels).flatMap fun ch =>
    (List.range s.blockRows).flatMap fun row =>
      (List.range s.blockCols).map fun col => ⟨ch, row, col⟩

/-- A sample position of a frame: channel, row, column. -/
structure SamplePos where
  ch : Nat
  y : Nat
  x : Nat
  deriving DecidableEq, Repr

/-- The sample lies in no full block (`43_base_frame.md` R151). -/
def State.isEdge (s : State) (y x : Nat) : Bool := decide (x ≥ 8 * s.blockCols) || decide (y ≥ 8 * s.blockRows)

/-- The edge samples of a frame. -/
def State.edgeWalk (s : State) : List SamplePos :=
  (List.range Config.channels).flatMap fun ch =>
    (List.range s.height).flatMap fun y =>
      ((List.range s.width).filter fun x => s.isEdge y x).map fun x => ⟨ch, y, x⟩

/-- The bytes that copy the edge samples of slot `src` to slot `dst` (`43_base_frame.md` R152). -/
def State.edgeCells (s : State) (dst src : Fin 4) : List Host.Cell :=
  s.edgeWalk.map fun p => (s.addr dst p.ch p.y p.x, Memory.read s.fmem (s.addr src p.ch p.y p.x))

/-- Every result of a list, unless one is `OVERFLOW` (`43_base_frame.md` R153). -/
def settleList {α : Type} : List (Option α) → Option (List α)
  | [] => some []
  | none :: _ => none
  | some x :: rest =>
    match settleList rest with
    | none => none
    | some xs => some (x :: xs)

end Sys2Proof.Machine
end

