-- ==== Sys2Proof/Machine/SystemCommands.lean ====
section
/-!
DEFINITION. The meanings of the system commands: NOP, CLRERR and SRESET (`46_system.md` R200 to R202).
-/

namespace Sys2Proof.Machine

/-- NOP (`46_system.md` R200): nothing but its end. -/
def execNop (s : State) : Host.Outcome State Fault Refusal := s.conclude (.ok s)

/-- CLRERR (`46_system.md` R201): the return from the fault state. -/
def execClrerr (s : State) : Host.Outcome State Fault Refusal := s.conclude (.ok s.clearFault)

/-- SRESET (`46_system.md` R202): the reset operation; FMEM and the ports are kept. It acts at the host's
write to `CMD` (R88), which runs this meaning. -/
def execSreset (s : State) : Host.Outcome State Fault Refusal := .next s.resetOperation

end Sys2Proof.Machine
end

