-- ==== Sys2Proof/Machine/HostPort.lean ====
section
/-!
DEFINITION. Host accesses to HRS and FMEM (`20_memory.md` R60 to R65; `10_state.md` R30, R41, R42, R54).
-/

namespace Sys2Proof.Machine

/-- What lies at an offset of HRS (`10_state.md` R30). -/
inductive HrsReg where
  | id
  | cmd
  | status
  | errinfo
  | dim
  | cur
  | bdepth
  | fb (k : Fin 4)
  | lstat
  | lcount
  | inaDim
  | inaFps
  | inbDim
  | inbFps
  | qm (k : Fin 2) (e : Fin 64)
  | br (k : Fin 4) (e : Fin 64)
  | reserved
  deriving DecidableEq, Repr

/-- The map of HRS (`10_state.md` R30). -/
def hrsReg (off : Nat) : HrsReg :=
  if off = 0x000 then .id
  else if off = 0x004 then .cmd
  else if off = 0x008 then .status
  else if off = 0x00C then .errinfo
  else if off = 0x010 then .dim
  else if off = 0x014 then .cur
  else if off = 0x018 then .bdepth
  else if off = 0x020 then .fb 0
  else if off = 0x024 then .fb 1
  else if off = 0x028 then .fb 2
  else if off = 0x02C then .fb 3
  else if off = 0x040 then .lstat
  else if off = 0x044 then .lcount
  else if off = 0x048 then .inaDim
  else if off = 0x04C then .inaFps
  else if off = 0x050 then .inbDim
  else if off = 0x054 then .inbFps
  else if 0x400 ≤ off ∧ off < 0x600 then
    .qm (Fin.ofNat 2 ((off - 0x400) / 0x100)) (Fin.ofNat 64 (off % 0x100 / 4))
  else if 0x800 ≤ off ∧ off < 0xC00 then
    .br (Fin.ofNat 4 ((off - 0x800) / 0x100)) (Fin.ofNat 64 (off % 0x100 / 4))
  else .reserved

/-- The one kind of access HRS accepts: an aligned word below 4096 (`20_memory.md` R62). -/
def hrsAccessOk (width : AccessWidth) (off : Nat) : Bool :=
  width == .word && decide (off % 4 = 0) && decide (off < Config.hrsSize)

/-- The one kind of host access FMEM accepts: a byte that exists (`20_memory.md` R65). -/
def State.fmemAccessOk (s : State) (width : AccessWidth) (a : Nat) : Bool :=
  width == .byte && decide (a < s.fmemSize)

/-- What a host read of a register returns; `none` is a draw. Block and matrix elements and `BDEPTH` are
draws while `BUSY = 1`, and an element that is not valid always is (`10_state.md` R22, R42). -/
def State.hrsValue (s : State) : HrsReg → Option Word
  | .id => some Config.idWord
  | .cmd => some 0
  | .status => some s.status.word
  | .errinfo => some s.errinfo
  | .dim => some s.dim
  | .cur => some s.cur
  | .bdepth => if s.status.busy then none else some s.bdepth
  | .fb k => some s.fb[k]
  | .lstat => some s.lstat.word
  | .lcount => some s.lcount
  | .inaDim => some s.inaDim
  | .inaFps => some s.inaFps
  | .inbDim => some s.inbDim
  | .inbFps => some s.inbFps
  | .qm k e => if s.status.busy then none else some s.qm[k][e]
  | .br k e => if s.status.busy || !s.brv[k][e] then none else some s.br[k][e]
  | .reserved => some 0

/-- A word returned to the host; a draw is a fresh free value. -/
def State.deliverWord (s : State) : Option Word → State
  | some w => { s with rdata := w }
  | none => { s with rdata := Config.hostWordDraw s.draws, draws := s.draws + 1 }

/-- `HrsRead(off)`: no side effect on the unit (`20_memory.md` R62, R64). -/
def State.hrsRead (s : State) (width : AccessWidth) (off : Nat) : Host.Outcome State Fault Refusal :=
  if hrsAccessOk width off then .next (s.deliverWord (s.hrsValue (hrsReg off))) else .refused .hrsAccess

/-- A host write to `CMD` of a word other than SRESET's (`10_state.md` R41, R42, R37). -/
def State.issue (s : State) (w : Word) : State :=
  if s.status.busy then { s with status := s.status.hazard }
  else if s.status.err ∧ w ≠ Config.clrerrWord then s
  else { s with pend := some w, status := s.status.accepted }

/-- A host write to a register other than `CMD` while `BUSY = 0`: read-only and reserved registers ignore
it (`10_state.md` R30, R54). -/
def State.writeReg (s : State) (r : HrsReg) (w : Word) : State :=
  match r with
  | .dim => { s with dim := w }
  | .cur => { s with cur := w &&& curMask }
  | .fb k => { s with fb := s.fb.set k w }
  | .qm k e => s.writeEntry k e w
  | .br k e => s.writeElement k e w
  | .id => s
  | .cmd => s
  | .status => s
  | .errinfo => s
  | .bdepth => s
  | .lstat => s
  | .lcount => s
  | .inaDim => s
  | .inaFps => s
  | .inbDim => s
  | .inbFps => s
  | .reserved => s

/-- `HrsWrite(off, w)`: a `CMD` write by R41, which runs SRESET at once; any other write is ignored and sets
`HZD` while `BUSY = 1` (`10_state.md` R41, R42). -/
def State.hrsWrite (s : State) (width : AccessWidth) (off : Nat) (w : Word) :
    Host.Outcome State Fault Refusal :=
  if hrsAccessOk width off then
    (if hrsReg off = .cmd then
      (if w = Config.sresetWord then execSreset s else .next (s.issue w))
    else if s.status.busy then .next { s with status := s.status.hazard }
    else .next (s.writeReg (hrsReg off) w))
  else .refused .hrsAccess

/-- A host read of an FMEM byte, zero-extended; a draw while `BUSY = 1` (`20_memory.md` R65,
`10_state.md` R42). -/
def State.fmemRead (s : State) (width : AccessWidth) (a : Nat) : Host.Outcome State Fault Refusal :=
  if s.fmemAccessOk width a then
    (if s.status.busy then
      .next { s with rdata := (Config.hostByteDraw s.draws).zeroExtend 32, draws := s.draws + 1 }
    else .next { s with rdata := (Memory.read s.fmem a).zeroExtend 32 })
  else .refused .fmemAccess

/-- A host write of an FMEM byte; ignored, with `HZD` set, while `BUSY = 1` (`20_memory.md` R65,
`10_state.md` R42). -/
def State.fmemWrite (s : State) (width : AccessWidth) (a : Nat) (v : Byte) :
    Host.Outcome State Fault Refusal :=
  if s.fmemAccessOk width a then
    (if s.status.busy then .next { s with status := s.status.hazard }
    else .next { s with fmem := Memory.write s.fmem a v })
  else .refused .fmemAccess

end Sys2Proof.Machine
end

