-- ==== Sys2Proof/Syntax.lean ====
section
/-!
DEFINITION. The commands of BTU-CS 1.0, one constructor per row of `30_encoding.md` R86, with the
selector fields as the command word holds them; their mnemonics, their written form (R90) and the
pseudo-commands (R91).
-/

namespace Sys2Proof

/-- A command. A selector is the 4-bit field of the word; which values are legal is `WellFormed.lean`. -/
inductive Instr where
  | nop
  | clrerr
  | sreset
  | fdct (rd ra : Sel)
  | idct (rd ra : Sel)
  | quant (rd ra qk : Sel)
  | dequant (rd ra qk : Sel)
  | clip (rd ra : Sel)
  | sub (rd ra rb : Sel)
  | add (rd ra rb : Sel)
  | bitdep (ra : Sel)
  | ldb (rd fs : Sel)
  | stb (fd rs : Sel)
  | qmfill (qk : Sel) (scale : BitVec 16)
  | basef (fd fs qk : Sel)
  | enhf (fd fo fb qk : Sel)
  | linit
  | lopen
  | lstep
  | lrun
  deriving DecidableEq, Repr

/-- The mnemonic of `30_encoding.md` R86. -/
def Instr.mnemonic : Instr → String
  | .nop => "NOP"
  | .clrerr => "CLRERR"
  | .sreset => "SRESET"
  | .fdct _ _ => "FDCT"
  | .idct _ _ => "IDCT"
  | .quant _ _ _ => "QUANT"
  | .dequant _ _ _ => "DEQUANT"
  | .clip _ _ => "CLIP"
  | .sub _ _ _ => "SUB"
  | .add _ _ _ => "ADD"
  | .bitdep _ => "BITDEP"
  | .ldb _ _ => "LDB"
  | .stb _ _ => "STB"
  | .qmfill _ _ => "QMFILL"
  | .basef _ _ _ => "BASEF"
  | .enhf _ _ _ _ => "ENHF"
  | .linit => "LINIT"
  | .lopen => "LOPEN"
  | .lstep => "LSTEP"
  | .lrun => "LRUN"

/-- The operands of the written form of a command, in the order destination, sources, matrix
(`30_encoding.md` R90). -/
def Instr.operands : Instr → List String
  | .nop | .clrerr | .sreset | .linit | .lopen | .lstep | .lrun => []
  | .fdct rd ra | .idct rd ra | .clip rd ra => ["BR" ++ toString rd.toNat, "BR" ++ toString ra.toNat]
  | .quant rd ra qk | .dequant rd ra qk =>
    ["BR" ++ toString rd.toNat, "BR" ++ toString ra.toNat, "QM" ++ toString qk.toNat]
  | .sub rd ra rb | .add rd ra rb =>
    ["BR" ++ toString rd.toNat, "BR" ++ toString ra.toNat, "BR" ++ toString rb.toNat]
  | .bitdep ra => ["BR" ++ toString ra.toNat]
  | .ldb rd fs => ["BR" ++ toString rd.toNat, "FS" ++ toString fs.toNat]
  | .stb fd rs => ["FS" ++ toString fd.toNat, "BR" ++ toString rs.toNat]
  | .qmfill qk n => ["QM" ++ toString qk.toNat, toString n.toNat]
  | .basef fd fs qk => ["FS" ++ toString fd.toNat, "FS" ++ toString fs.toNat, "QM" ++ toString qk.toNat]
  | .enhf fd fo fb qk =>
    ["FS" ++ toString fd.toNat, "FS" ++ toString fo.toNat, "FS" ++ toString fb.toNat, "QM" ++ toString qk.toNat]

/-- The written form of a command (`30_encoding.md` R90). -/
def Instr.written (i : Instr) : String :=
  match i.operands with
  | [] => i.mnemonic
  | ops => i.mnemonic ++ " " ++ ", ".intercalate ops

/-- A pseudo-command of `30_encoding.md` R91. -/
inductive Pseudo where
  | tqrt (rd ra qk : Sel)
  | recon (rd ra rb : Sel)
  | qmbase
  | qmenh
  deriving DecidableEq, Repr

/-- The fixed sequence of real commands a pseudo-command stands for; the host issues them in turn
(`30_encoding.md` R91). -/
def Pseudo.expand : Pseudo → List Instr
  | .tqrt rd ra qk => [.fdct rd ra, .quant rd rd qk, .dequant rd rd qk, .idct rd rd]
  | .recon rd ra rb => [.add rd ra rb, .clip rd rd]
  | .qmbase => [.qmfill 0 16]
  | .qmenh => [.qmfill 1 4]

end Sys2Proof
end

