-- ==== Sys2Proof/WellFormed.lean ====
section
/-!
DEFINITION. Which selector values are legal (`30_encoding.md` R82). A command with an illegal selector
has no legal encoding and faults with `E_ILLEGAL` when executed (R87).
-/

namespace Sys2Proof

/-- A block-register selector: `BR0` to `BR3`. -/
def Sel.isBlock (r : Sel) : Bool := decide (r.toNat < 4)

/-- A matrix-register selector: `QM0`, `QM1`. -/
def Sel.isMatrix (q : Sel) : Bool := decide (q.toNat < 2)

/-- A frame-slot selector: `FS0` to `FS3`. -/
def Sel.isSlot (f : Sel) : Bool := decide (f.toNat < 4)

/-- Every selector of the command is in its range (`30_encoding.md` R82, R86). `IMM16` of QMFILL is
unrestricted: 0 is encodable and faults when executed (R83). -/
def Instr.wellFormed : Instr → Bool
  | .nop => true
  | .clrerr => true
  | .sreset => true
  | .fdct rd ra => Sel.isBlock rd && Sel.isBlock ra
  | .idct rd ra => Sel.isBlock rd && Sel.isBlock ra
  | .quant rd ra qk => Sel.isBlock rd && Sel.isBlock ra && Sel.isMatrix qk
  | .dequant rd ra qk => Sel.isBlock rd && Sel.isBlock ra && Sel.isMatrix qk
  | .clip rd ra => Sel.isBlock rd && Sel.isBlock ra
  | .sub rd ra rb => Sel.isBlock rd && Sel.isBlock ra && Sel.isBlock rb
  | .add rd ra rb => Sel.isBlock rd && Sel.isBlock ra && Sel.isBlock rb
  | .bitdep ra => Sel.isBlock ra
  | .ldb rd fs => Sel.isBlock rd && Sel.isSlot fs
  | .stb fd rs => Sel.isSlot fd && Sel.isBlock rs
  | .qmfill qk _ => Sel.isMatrix qk
  | .basef fd fs qk => Sel.isSlot fd && Sel.isSlot fs && Sel.isMatrix qk
  | .enhf fd fo fb qk => Sel.isSlot fd && Sel.isSlot fo && Sel.isSlot fb && Sel.isMatrix qk
  | .linit => true
  | .lopen => true
  | .lstep => true
  | .lrun => true

end Sys2Proof
end

