-- ==== Sys2Proof/Decode.lean ====
section
/-!
DEFINITION. Decoding a 32-bit command word (`30_encoding.md` R80 to R88), total and rejecting by name;
after it the encoder, written from R81 and R90, and the match and mask of every row of R86.
-/

namespace Sys2Proof

/-- Why a word is no command (`30_encoding.md` R87). Every one of the three is `E_ILLEGAL` when the unit
takes the word. -/
inductive DecodeError where
  /-- The opcode byte is not in the table. -/
  | unassignedOpcode
  /-- A selector field names no register or slot. -/
  | selectorOutOfRange
  /-- A must-be-zero bit is 1. -/
  | mustBeZero
  deriving DecidableEq, Repr

/-- `OPC`, bits 31:24 (`30_encoding.md` R81). -/
def Word.opc (w : Word) : BitVec 8 := w.extractLsb' 24 8

/-- `D`, bits 23:20. -/
def Word.fieldD (w : Word) : Sel := w.extractLsb' 20 4

/-- `A`, bits 19:16. -/
def Word.fieldA (w : Word) : Sel := w.extractLsb' 16 4

/-- `B`, bits 15:12. -/
def Word.fieldB (w : Word) : Sel := w.extractLsb' 12 4

/-- `IMM12`, bits 11:0. -/
def Word.imm12 (w : Word) : BitVec 12 := w.extractLsb' 0 12

/-- `IMM16`, bits 15:0, overlapping `B` and `IMM12`. -/
def Word.imm16 (w : Word) : BitVec 16 := w.extractLsb' 0 16

/-- The matrix selector of ENHF, `IMM12[3:0]` (`30_encoding.md` R84). -/
def Word.fieldQ (w : Word) : Sel := w.extractLsb' 0 4

/-- `IMM12[11:4]`, which ENHF requires to be 0 (`30_encoding.md` R84). -/
def Word.enhfZero (w : Word) : BitVec 8 := w.extractLsb' 4 8

/-- Accept a command whose selectors are in range and whose must-be-zero fields are 0. -/
def accept (selectors zeros : Bool) (i : Instr) : Except DecodeError Instr :=
  if selectors = false then .error .selectorOutOfRange
  else if zeros = false then .error .mustBeZero
  else .ok i

/-- Decode a command word (`30_encoding.md` R86, R87). -/
def decode (w : Word) : Except DecodeError Instr :=
  match (Word.opc w).toNat with
  | 0x00 => accept true (w.extractLsb' 0 24 == 0) .nop
  | 0x01 => accept true (w.extractLsb' 0 24 == 0) .clrerr
  | 0x02 => accept true (w.extractLsb' 0 24 == 0) .sreset
  | 0x10 => accept (Sel.isBlock (Word.fieldD w) && Sel.isBlock (Word.fieldA w)) (Word.imm16 w == 0)
      (.fdct (Word.fieldD w) (Word.fieldA w))
  | 0x11 => accept (Sel.isBlock (Word.fieldD w) && Sel.isBlock (Word.fieldA w)) (Word.imm16 w == 0)
      (.idct (Word.fieldD w) (Word.fieldA w))
  | 0x12 => accept (Sel.isBlock (Word.fieldD w) && Sel.isBlock (Word.fieldA w) && Sel.isMatrix (Word.fieldB w))
      (Word.imm12 w == 0) (.quant (Word.fieldD w) (Word.fieldA w) (Word.fieldB w))
  | 0x13 => accept (Sel.isBlock (Word.fieldD w) && Sel.isBlock (Word.fieldA w) && Sel.isMatrix (Word.fieldB w))
      (Word.imm12 w == 0) (.dequant (Word.fieldD w) (Word.fieldA w) (Word.fieldB w))
  | 0x14 => accept (Sel.isBlock (Word.fieldD w) && Sel.isBlock (Word.fieldA w)) (Word.imm16 w == 0)
      (.clip (Word.fieldD w) (Word.fieldA w))
  | 0x18 => accept (Sel.isBlock (Word.fieldD w) && Sel.isBlock (Word.fieldA w) && Sel.isBlock (Word.fieldB w))
      (Word.imm12 w == 0) (.sub (Word.fieldD w) (Word.fieldA w) (Word.fieldB w))
  | 0x19 => accept (Sel.isBlock (Word.fieldD w) && Sel.isBlock (Word.fieldA w) && Sel.isBlock (Word.fieldB w))
      (Word.imm12 w == 0) (.add (Word.fieldD w) (Word.fieldA w) (Word.fieldB w))
  | 0x1A => accept (Sel.isBlock (Word.fieldA w)) (Word.fieldD w == 0 && Word.imm16 w == 0)
      (.bitdep (Word.fieldA w))
  | 0x20 => accept (Sel.isBlock (Word.fieldD w) && Sel.isSlot (Word.fieldA w)) (Word.imm16 w == 0)
      (.ldb (Word.fieldD w) (Word.fieldA w))
  | 0x21 => accept (Sel.isSlot (Word.fieldD w) && Sel.isBlock (Word.fieldA w)) (Word.imm16 w == 0)
      (.stb (Word.fieldD w) (Word.fieldA w))
  | 0x28 => accept (Sel.isMatrix (Word.fieldD w)) (Word.fieldA w == 0) (.qmfill (Word.fieldD w) (Word.imm16 w))
  | 0x30 => accept (Sel.isSlot (Word.fieldD w) && Sel.isSlot (Word.fieldA w) && Sel.isMatrix (Word.fieldB w))
      (Word.imm12 w == 0) (.basef (Word.fieldD w) (Word.fieldA w) (Word.fieldB w))
  | 0x31 => accept (Sel.isSlot (Word.fieldD w) && Sel.isSlot (Word.fieldA w) && Sel.isSlot (Word.fieldB w)
        && Sel.isMatrix (Word.fieldQ w))
      (Word.enhfZero w == 0) (.enhf (Word.fieldD w) (Word.fieldA w) (Word.fieldB w) (Word.fieldQ w))
  | 0x40 => accept true (w.extractLsb' 0 24 == 0) .linit
  | 0x41 => accept true (w.extractLsb' 0 24 == 0) .lopen
  | 0x42 => accept true (w.extractLsb' 0 24 == 0) .lstep
  | 0x43 => accept true (w.extractLsb' 0 24 == 0) .lrun
  | _ => .error .unassignedOpcode

/-- A word of format R: `OPC[8] D[4] A[4] B[4] IMM12[12]` (`30_encoding.md` R81). -/
def formatR (opc : BitVec 8) (d a b : Sel) (imm : BitVec 12) : Word := opc ++ d ++ a ++ b ++ imm

/-- A word of format Z: the opcode and 24 zeros. -/
def formatZ (opc : BitVec 8) : Word := opc ++ 0#24

/-- A word of format I: `OPC[8] D[4] 0000 IMM16[16]`. -/
def formatI (opc : BitVec 8) (d : Sel) (imm : BitVec 16) : Word := opc ++ d ++ 0#4 ++ imm

/-- The word of a command, from the syntax table of `30_encoding.md` R90. -/
def encode : Instr → Word
  | .nop => formatZ 0x00#8
  | .clrerr => formatZ 0x01#8
  | .sreset => formatZ 0x02#8
  | .fdct rd ra => formatR 0x10#8 rd ra 0 0
  | .idct rd ra => formatR 0x11#8 rd ra 0 0
  | .quant rd ra qk => formatR 0x12#8 rd ra qk 0
  | .dequant rd ra qk => formatR 0x13#8 rd ra qk 0
  | .clip rd ra => formatR 0x14#8 rd ra 0 0
  | .sub rd ra rb => formatR 0x18#8 rd ra rb 0
  | .add rd ra rb => formatR 0x19#8 rd ra rb 0
  | .bitdep ra => formatR 0x1A#8 0 ra 0 0
  | .ldb rd fs => formatR 0x20#8 rd fs 0 0
  | .stb fd rs => formatR 0x21#8 fd rs 0 0
  | .qmfill qk n => formatI 0x28#8 qk n
  | .basef fd fs qk => formatR 0x30#8 fd fs qk 0
  | .enhf fd fo fb qk => formatR 0x31#8 fd fo fb (0#8 ++ qk)
  | .linit => formatZ 0x40#8
  | .lopen => formatZ 0x41#8
  | .lstep => formatZ 0x42#8
  | .lrun => formatZ 0x43#8

/-- One row of `30_encoding.md` R86: a word `w` is the command when `w & mask = match`. -/
structure OpcodeRow where
  mnemonic : String
  matchWord : Word
  mask : Word
  deriving DecidableEq, Repr

/-- The row of a command in `30_encoding.md` R86. -/
def Instr.row : Instr → OpcodeRow
  | .nop => ⟨"NOP", 0x00000000, 0xFFFFFFFF⟩
  | .clrerr => ⟨"CLRERR", 0x01000000, 0xFFFFFFFF⟩
  | .sreset => ⟨"SRESET", 0x02000000, 0xFFFFFFFF⟩
  | .fdct _ _ => ⟨"FDCT", 0x10000000, 0xFFCCFFFF⟩
  | .idct _ _ => ⟨"IDCT", 0x11000000, 0xFFCCFFFF⟩
  | .quant _ _ _ => ⟨"QUANT", 0x12000000, 0xFFCCEFFF⟩
  | .dequant _ _ _ => ⟨"DEQUANT", 0x13000000, 0xFFCCEFFF⟩
  | .clip _ _ => ⟨"CLIP", 0x14000000, 0xFFCCFFFF⟩
  | .sub _ _ _ => ⟨"SUB", 0x18000000, 0xFFCCCFFF⟩
  | .add _ _ _ => ⟨"ADD", 0x19000000, 0xFFCCCFFF⟩
  | .bitdep _ => ⟨"BITDEP", 0x1A000000, 0xFFFCFFFF⟩
  | .ldb _ _ => ⟨"LDB", 0x20000000, 0xFFCCFFFF⟩
  | .stb _ _ => ⟨"STB", 0x21000000, 0xFFCCFFFF⟩
  | .qmfill _ _ => ⟨"QMFILL", 0x28000000, 0xFFEF0000⟩
  | .basef _ _ _ => ⟨"BASEF", 0x30000000, 0xFFCCEFFF⟩
  | .enhf _ _ _ _ => ⟨"ENHF", 0x31000000, 0xFFCCCFFE⟩
  | .linit => ⟨"LINIT", 0x40000000, 0xFFFFFFFF⟩
  | .lopen => ⟨"LOPEN", 0x41000000, 0xFFFFFFFF⟩
  | .lstep => ⟨"LSTEP", 0x42000000, 0xFFFFFFFF⟩
  | .lrun => ⟨"LRUN", 0x43000000, 0xFFFFFFFF⟩

/-- The 20 rows of `30_encoding.md` R86, in its order. -/
def opcodeTable : List OpcodeRow :=
  [Instr.nop, .clrerr, .sreset, .fdct 0 0, .idct 0 0, .quant 0 0 0, .dequant 0 0 0, .clip 0 0,
   .sub 0 0 0, .add 0 0 0, .bitdep 0, .ldb 0 0, .stb 0 0, .qmfill 0 0, .basef 0 0 0, .enhf 0 0 0 0,
   .linit, .lopen, .lstep, .lrun].map Instr.row

/-- The command the decoder reads from a word given as a number, bit 0 the least significant: a
command is one 32-bit word, so there is no order of words or bytes to settle (`30_encoding.md` R80). -/
def decodeTableWord (nbits w : Nat) : Option Instr :=
  match decode (BitVec.ofNat 32 (w % 2 ^ nbits)) with
  | .ok i => some i
  | .error _ => none

end Sys2Proof
end

