-- ==== Sys2Proof/Machine/BlockIo.lean ====
section
/-!
DEFINITION. The meanings of the block load and store: LDB and STB (`42_block_io.md` R142, R143).
-/

namespace Sys2Proof.Machine

/-- LDB (`42_block_io.md` R142): 64 bytes at the cursor, each zero-extended and converted exactly. -/
def execLdb (rd fs : Sel) (s : State) : Host.Outcome State Fault Refusal :=
  s.conclude do
    let d ← blockSel rd
    let k ← slotSel fs
    s.blockCheck k
    .ok (s.writeBlock d (s.loadBlock k s.curCh s.curBy s.curBx))

/-- STB (`42_block_io.md` R143): the source is checked before the geometry; 64 bytes at the cursor. -/
def execStb (fd rs : Sel) (s : State) : Host.Outcome State Fault Refusal :=
  s.conclude do
    let k ← slotSel fd
    let a ← blockSel rs
    let X ← s.srcBlock a
    s.blockCheck k
    .ok { s with fmem := Memory.writeAll s.fmem (s.storeCells k s.curCh s.curBy s.curBx X) }

end Sys2Proof.Machine
end

