-- ==== Sys2Proof/Machine/Combiner.lean ====
section
/-!
DEFINITION. The meanings of the layer synchronizer/combiner's commands: LINIT, LOPEN, LSTEP and LRUN
(`45_combiner.md` R185, R186, R190, R191). A hold is a step that changes nothing and leaves the command
pending (`00_scope.md` R8; notes/assumptions/6).
-/

namespace Sys2Proof.Machine

/-- LINIT (`45_combiner.md` R185). -/
def execLinit (s : State) : Host.Outcome State Fault Refusal :=
  s.conclude
    (if s.lstat.state = .idle ∨ s.lstat.state = .closed then
      .ok { s with lstat := Lstat.reset, lcount := 0, inaDim := 0, inaFps := 0, inbDim := 0, inbFps := 0 }
    else .error .state)

/-- The metadata LOPEN captures from the inputs that are present (`45_combiner.md` R186). -/
def State.captureMeta (s : State) : State :=
  { s with
    inaDim := if s.ina.present then s.ina.info.dimWord else s.inaDim
    inaFps := if s.ina.present then s.ina.info.fps else s.inaFps
    inbDim := if s.inb.present then s.inb.info.dimWord else s.inbDim
    inbFps := if s.inb.present then s.inb.info.fps else s.inbFps }

/-- LOPEN, phase 2, up to its end: both inputs present opens the outputs with the metadata of R188,
otherwise the run ends in `Closed` with `OPENERR` (`45_combiner.md` R186, R187). -/
def State.openPorts (s : State) : State :=
  if s.ina.present ∧ s.inb.present then
    { s.captureMeta with
      outl := s.outl.openWith s.ina.info
      outh := s.outh.openWith s.inb.info
      outf := s.outf.openWith s.inb.info
      lstat := { s.lstat with faila := false, failb := false, state := .streaming } }
  else
    { s.captureMeta with
      lstat := { s.lstat with
        faila := !s.ina.present, failb := !s.inb.present, openerr := true, state := .closed } }

/-- LOPEN (`45_combiner.md` R186), in two unit steps: phase 1 goes from `Idle` to `Opening` and leaves the
command pending; phase 2 opens the ports and ends. -/
def execLopen (s : State) : Host.Outcome State Fault Refusal :=
  if s.lstat.state = .opening then .next s.openPorts.complete
  else if s.lstat.state = .idle then .next { s with lstat := { s.lstat with state := .opening } }
  else .next (s.takeFault .state)

/-- Both inputs can be read: what a pair-step holds for (`45_combiner.md` R189). -/
def State.pairReady (s : State) : Bool := s.ina.ready && s.inb.ready

/-- The pair-step when both inputs are ready (`45_combiner.md` R189): both tokens are consumed; two Frames
are emitted and counted, otherwise the run ends. -/
def State.pairStep (s : State) : State :=
  match s.ina.token, s.inb.token with
  | some ta, some tb =>
    { s with
      ina := s.ina.consumed
      inb := s.inb.consumed
      outl := s.outl.append ta
      outh := s.outh.append tb
      outf := s.outf.append tb
      lcount := s.lcount + 1 }
  | ta, tb =>
    { s with
      ina := s.ina.consumed
      inb := s.inb.consumed
      outl := s.outl.close
      outh := s.outh.close
      outf := s.outf.close
      lstat := { s.lstat with eosa := ta.isNone, eosb := tb.isNone, state := .closed } }

/-- LSTEP (`45_combiner.md` R190): one pair-step, or a hold while an input is not ready. -/
def execLstep (s : State) : Host.Outcome State Fault Refusal :=
  if s.lstat.state ≠ .streaming then .next (s.takeFault .state)
  else if s.pairReady then .next s.pairStep.complete
  else .next s

/-- LRUN (`45_combiner.md` R191): one pair-step; the command ends when the pair-step ended the run and
stays pending otherwise, and it holds while an input is not ready. -/
def execLrun (s : State) : Host.Outcome State Fault Refusal :=
  if s.lstat.state ≠ .streaming then .next (s.takeFault .state)
  else if s.pairReady then
    (if s.pairStep.lstat.state = .closed then .next s.pairStep.complete else .next s.pairStep)
  else .next s

end Sys2Proof.Machine
end

