-- ==== Sys2Proof/Machine/ConfigCommands.lean ====
section
/-!
DEFINITION. The meaning of QMFILL (`40_config.md` R101).
-/

namespace Sys2Proof.Machine

/-- QMFILL (`40_config.md` R101): every entry of the matrix becomes the scale; a scale of 0 is `E_QM`. -/
def execQmfill (qk : Sel) (scale : BitVec 16) (s : State) : Host.Outcome State Fault Refusal :=
  s.conclude do
    let k ← matrixSel qk
    if scale = 0 then .error .qm
    .ok (s.fillMatrix k (enc32 (ofInteger scale.toNat)))

end Sys2Proof.Machine
end

