-- ==== Sys2Proof/Machine/Frame.lean ====
section
/-!
DEFINITION. The meanings of the frame commands: BASEF (`43_base_frame.md` R152) and ENHF
(`44_residual_enh.md` R170). Every block result is computed from FMEM as it was when the command started,
and checked, before the first byte is written (R151, R153).
-/

namespace Sys2Proof.Machine

/-- The results of BASEF for every full block, in walk order, or `OVERFLOW`. -/
def State.baseResults (s : State) (src : Fin 4) (M : Block) : Option (List (BlockPos × Block)) :=
  settleList (s.blockWalk.map fun p =>
    match basePath M (s.loadBlock src p.ch p.row p.col) with
    | none => none
    | some Z => some (p, Z))

/-- The bytes of a list of block results stored to slot `dst`. -/
def State.frameCells (s : State) (dst : Fin 4) (rs : List (BlockPos × Block)) : List Host.Cell :=
  rs.flatMap fun r => s.storeCells dst r.1.ch r.1.row r.1.col r.2

/-- BASEF (`43_base_frame.md` R152): matrix, geometry, fit and overlap, overflow, in that order; edge
samples copied from the source; `STATUS.EDGE` set when a dimension is not a multiple of 8. -/
def execBasef (fd fs qk : Sel) (s : State) : Host.Outcome State Fault Refusal :=
  s.conclude do
    let d ← slotSel fd
    let k ← slotSel fs
    let q ← matrixSel qk
    let M ← s.matrix q
    s.frameCheck d [k]
    let rs ← settled (s.baseResults k M)
    .ok { s with
      fmem := Memory.writeAll s.fmem (s.edgeCells d k ++ s.frameCells d rs)
      status := s.status.edged s.width s.height }

/-- The results of ENHF for every full block, in walk order, each the levels and the unrounded sum, or
`OVERFLOW`. -/
def State.enhResults (s : State) (orig base : Fin 4) (M : Block) :
    Option (List (BlockPos × Block × Block)) :=
  settleList (s.blockWalk.map fun p =>
    match enhPath M (s.loadBlock orig p.ch p.row p.col) (s.loadBlock base p.ch p.row p.col) with
    | none => none
    | some (Q, E) => some (p, Q, E))

/-- `BDEPTH` after ENHF: the estimate of the levels of the last block in walk order; unchanged when the
frame has no full block (`44_residual_enh.md` R170). -/
def State.enhDepth (s : State) (rs : List (BlockPos × Block × Block)) : Word :=
  match rs.getLast? with
  | none => s.bdepth
  | some r => BitVec.ofInt 32 (bitdepth r.2.1)

/-- ENHF (`44_residual_enh.md` R170, R171): as BASEF, with the edge samples copied from the original. -/
def execEnhf (fd fo fb qk : Sel) (s : State) : Host.Outcome State Fault Refusal :=
  s.conclude do
    let d ← slotSel fd
    let o ← slotSel fo
    let b ← slotSel fb
    let q ← matrixSel qk
    let M ← s.matrix q
    s.frameCheck d [o, b]
    let rs ← settled (s.enhResults o b M)
    .ok { s with
      fmem := Memory.writeAll s.fmem
        (s.edgeCells d o ++ s.frameCells d (rs.map fun r => (r.1, r.2.2)))
      bdepth := s.enhDepth rs
      status := s.status.edged s.width s.height }

end Sys2Proof.Machine
end

