-- ==== Sys2Proof/Machine/Residual.lean ====
section
/-!
DEFINITION. The meanings of the residual arithmetic: SUB, ADD and BITDEP (`44_residual_enh.md` R160,
R161, R166).
-/

namespace Sys2Proof.Machine

/-- A command with two block sources: `ra` is checked completely before `rb` (`60_exceptions.md` R213). -/
def State.binaryBlock (s : State) (rd ra rb : Sel) (f : Block → Block → Option Block) :
    Except FaultCode State := do
  let d ← blockSel rd
  let a ← blockSel ra
  let b ← blockSel rb
  let X ← s.srcBlock a
  let Z ← s.srcBlock b
  let Y ← settled (f X Z)
  .ok (s.writeBlock d Y)

/-- SUB (`44_residual_enh.md` R160): signed, not clamped. -/
def execSub (rd ra rb : Sel) (s : State) : Host.Outcome State Fault Refusal :=
  s.conclude (s.binaryBlock rd ra rb subBlock)

/-- ADD (`44_residual_enh.md` R161): not clamped. -/
def execAdd (rd ra rb : Sel) (s : State) : Host.Outcome State Fault Refusal :=
  s.conclude (s.binaryBlock rd ra rb addBlock)

/-- BITDEP (`44_residual_enh.md` R166): writes `BDEPTH` only. -/
def execBitdep (ra : Sel) (s : State) : Host.Outcome State Fault Refusal :=
  s.conclude do
    let a ← blockSel ra
    let X ← s.srcBlock a
    .ok { s with bdepth := BitVec.ofInt 32 (bitdepth X) }

end Sys2Proof.Machine
end

