-- ==== Sys2Proof/Machine/Tqu.lean ====
section
/-!
DEFINITION. The meanings of the transform-quantization unit's commands: FDCT, IDCT, QUANT, DEQUANT and
CLIP (`41_tqu.md` R118 to R122). Each makes its checks in the order of `60_exceptions.md` R213.
-/

namespace Sys2Proof.Machine

/-- A command with one block source: read it, compute, check for overflow, write the destination. -/
def State.unaryBlock (s : State) (rd ra : Sel) (f : Block → Option Block) : Except FaultCode State := do
  let d ← blockSel rd
  let a ← blockSel ra
  let X ← s.srcBlock a
  let Y ← settled (f X)
  .ok (s.writeBlock d Y)

/-- A command with a block source and a matrix: the block is checked first, then the matrix. -/
def State.matrixBlock (s : State) (rd ra qk : Sel) (f : Block → Block → Option Block) :
    Except FaultCode State := do
  let d ← blockSel rd
  let a ← blockSel ra
  let q ← matrixSel qk
  let X ← s.srcBlock a
  let M ← s.matrix q
  let Y ← settled (f X M)
  .ok (s.writeBlock d Y)

/-- FDCT (`41_tqu.md` R118). -/
def execFdct (rd ra : Sel) (s : State) : Host.Outcome State Fault Refusal :=
  s.conclude (s.unaryBlock rd ra fdct)

/-- IDCT (`41_tqu.md` R119): the result is neither clamped nor rounded to an integer. -/
def execIdct (rd ra : Sel) (s : State) : Host.Outcome State Fault Refusal :=
  s.conclude (s.unaryBlock rd ra idct)

/-- QUANT (`41_tqu.md` R120). -/
def execQuant (rd ra qk : Sel) (s : State) : Host.Outcome State Fault Refusal :=
  s.conclude (s.matrixBlock rd ra qk quantBlock)

/-- DEQUANT (`41_tqu.md` R121). -/
def execDequant (rd ra qk : Sel) (s : State) : Host.Outcome State Fault Refusal :=
  s.conclude (s.matrixBlock rd ra qk dequantBlock)

/-- CLIP (`41_tqu.md` R122): no result overflows. -/
def execClip (rd ra : Sel) (s : State) : Host.Outcome State Fault Refusal :=
  s.conclude (s.unaryBlock rd ra fun X => some (clipBlock X))

end Sys2Proof.Machine
end

