-- ==== Sys2Proof/Machine/Dispatch.lean ====
section
/-!
DEFINITION. The meaning of each command, one arm per constructor of `Instr`.
-/

namespace Sys2Proof.Machine

/-- What the unit does with a decoded command. -/
def exec (i : Instr) (s : State) : Host.Outcome State Fault Refusal :=
  match i with
  | .nop => Sys2Proof.Machine.execNop s
  | .clrerr => Sys2Proof.Machine.execClrerr s
  | .sreset => Sys2Proof.Machine.execSreset s
  | .fdct rd ra => Sys2Proof.Machine.execFdct rd ra s
  | .idct rd ra => Sys2Proof.Machine.execIdct rd ra s
  | .quant rd ra qk => Sys2Proof.Machine.execQuant rd ra qk s
  | .dequant rd ra qk => Sys2Proof.Machine.execDequant rd ra qk s
  | .clip rd ra => Sys2Proof.Machine.execClip rd ra s
  | .sub rd ra rb => Sys2Proof.Machine.execSub rd ra rb s
  | .add rd ra rb => Sys2Proof.Machine.execAdd rd ra rb s
  | .bitdep ra => Sys2Proof.Machine.execBitdep ra s
  | .ldb rd fs => Sys2Proof.Machine.execLdb rd fs s
  | .stb fd rs => Sys2Proof.Machine.execStb fd rs s
  | .qmfill qk scale => Sys2Proof.Machine.execQmfill qk scale s
  | .basef fd fs qk => Sys2Proof.Machine.execBasef fd fs qk s
  | .enhf fd fo fb qk => Sys2Proof.Machine.execEnhf fd fo fb qk s
  | .linit => Sys2Proof.Machine.execLinit s
  | .lopen => Sys2Proof.Machine.execLopen s
  | .lstep => Sys2Proof.Machine.execLstep s
  | .lrun => Sys2Proof.Machine.execLrun s

end Sys2Proof.Machine
end

