-- ==== Sys2Proof/Machine/Unit.lean ====
section
/-!
DEFINITION. The unit's turn: it takes the command in `PEND` (`10_state.md` R41).
-/

namespace Sys2Proof.Machine

/-- The unit takes a command word: the command it decodes to, or `E_ILLEGAL` (`30_encoding.md` R87). -/
def State.runWord (s : State) (w : Word) : Host.Outcome State Fault Refusal :=
  match decode w with
  | .ok i => exec i s
  | .error _ => .next (s.takeFault .illegal)

/-- The unit's turn: with no pending command it does nothing and keeps all its state
(`60_exceptions.md` R232). -/
def State.unitTurn (s : State) : Host.Outcome State Fault Refusal :=
  match s.pend with
  | none => .next s
  | some w => s.runWord w

end Sys2Proof.Machine
end

