-- ==== Sys2Proof/Machine/Agents.lean ====
section
/-!
DEFINITION. One step of one agent: the unit, the host, the reset input, or the stream environment
(`00_scope.md` R7, `60_exceptions.md` R221).
-/

namespace Sys2Proof.Machine

/-- A producer sets `ready` (`70_reset_and_hazards.md` R252). -/
def State.producerReady (s : State) : InputId → State
  | .a => { s with ina := { s.ina with ready := true } }
  | .b => { s with inb := { s.inb with ready := true } }

/-- The environment may replace the port records: the LSC is `Idle` or `Closed` and `BUSY = 0`
(`10_state.md` R52). -/
def State.mayAttach (s : State) : Bool :=
  (s.lstat.state == .idle || s.lstat.state == .closed) && !s.status.busy

/-- The environment replaces all five port records, fresh (`10_state.md` R50 to R52). -/
def State.attach (s : State) (a b : InPort) (l h f : OutPort) : Host.Outcome State Fault Refusal :=
  if s.mayAttach then
    .next { s with
      ina := a.attached, inb := b.attached, outl := l.attached, outh := h.attached, outf := f.attached }
  else .refused .portsReplaced

/-- One step of the agent an event names. -/
def State.agentStep (s : State) : Event → Host.Outcome State Fault Refusal
  | .unit => s.unitTurn
  | .hrsRead width off => s.hrsRead width off
  | .hrsWrite width off w => s.hrsWrite width off w
  | .fmemRead width a => s.fmemRead width a
  | .fmemWrite width a v => s.fmemWrite width a v
  | .resetInput drawn => .next (s.resetInput drawn)
  | .producerReady port => .next (s.producerReady port)
  | .attach a b l h f => s.attach a b l h f

/-- The agent whose turn is next takes its step: the first of the agenda, or the unit when the agenda is
empty. -/
def State.nextTurn (s : State) : Host.Outcome State Fault Refusal :=
  match s.agenda with
  | [] => s.unitTurn
  | ev :: rest => State.agentStep { s with agenda := rest } ev

/-- `s` with the command word `w` pending and the unit's turn next. -/
def State.withPending (s : State) (w : Word) : State :=
  { s with pend := some w, status := s.status.accepted, agenda := [] }

end Sys2Proof.Machine
end

