-- ==== Sys2Proof/Machine/Step.lean ====
section
/-!
DEFINITION. The step of the machine: one step of one agent (`00_scope.md` R7).
-/

namespace Sys2Proof.Machine

/-- One step: the next agent's turn. -/
def step (s : State) : Host.Outcome State Fault Refusal := s.nextTurn

/-- `s` with the command `w` where the next step takes its command: pending, `BUSY` set, and the unit's
turn next. `nbits` is 32 for every command (`30_encoding.md` R80). -/
def State.withFetchWord (s : State) (nbits w : Nat) : State :=
  s.withPending (BitVec.ofNat 32 (w % 2 ^ nbits))

end Sys2Proof.Machine
end

