-- ==== Sys2Proof/Safety.lean ====
section
/-!
DEFINITION. The terms the claims use: when a source is ready, what each computation of the spec relates, the
frames, the invariant of the machine, and what counts as a safe step.
-/

namespace Sys2Proof.Machine

/-- The selector field that names register or slot `k` (`30_encoding.md` R82). -/
def sel {n : Nat} (k : Fin n) : Sel := BitVec.ofNat 4 k.val

/-- Every element of `BR[k]` has been written (`10_state.md` R22). -/
def AllValid (s : State) (k : Fin 4) : Prop := ∀ e : Fin 64, s.brv[k][e] = true

/-- Every element of `BR[k]` is finite (`41_tqu.md` R110). -/
def AllFinite (s : State) (k : Fin 4) : Prop := ∀ e : Fin 64, finite32 s.br[k][e] = true

/-- The values of `BR[k]` (`41_tqu.md` R110). -/
def valuesOf (s : State) (k : Fin 4) : Block := Vector.ofFn fun e : Fin 64 => dec32 s.br[k][e]

/-- Every entry of `QM[q]` is finite and strictly positive (`41_tqu.md` R112). -/
def MatrixReady (s : State) (q : Fin 2) : Prop :=
  ∀ e : Fin 64, finite32 s.qm[q][e] = true ∧ 0 < dec32 s.qm[q][e]

/-- The values of `QM[q]` (`41_tqu.md` R112). -/
def entriesOf (s : State) (q : Fin 2) : Block := Vector.ofFn fun e : Fin 64 => dec32 s.qm[q][e]

/-- `Y` is the forward transform of `X` under `XF_REF`: rows into `T`, then columns, each dot product exact
and rounded once (`41_tqu.md` R116). -/
def IsForward (X Y : Block) : Prop :=
  ∃ T : Block,
    (∀ r v : Fin 8, fl32 (∑ n : Fin 8, coef v n * at8 X r n) (2 ^ 149) = some (at8 T r v)) ∧
    (∀ u v : Fin 8, fl32 (∑ n : Fin 8, coef u n * at8 T n v) (2 ^ 149) = some (at8 Y u v))

/-- `X` is the inverse transform of `Y` under `XF_REF`: columns into `T`, then rows (`41_tqu.md` R116). -/
def IsInverse (Y X : Block) : Prop :=
  ∃ T : Block,
    (∀ r v : Fin 8, fl32 (∑ n : Fin 8, coef n r * at8 Y n v) (2 ^ 149) = some (at8 T r v)) ∧
    (∀ r c : Fin 8, fl32 (∑ n : Fin 8, coef n c * at8 T r n) (2 ^ 149) = some (at8 X r c))

/-- `Y` is `X` quantized by `M`: the quotient rounded to binary32, then to an integer, ties to even
(`41_tqu.md` R120). -/
def IsQuant (X M Y : Block) : Prop :=
  ∀ e : Fin 64, ∃ t : Int, fl32 (X[e] * 2 ^ 149) M[e].toNat = some t ∧
    Y[e] = rneDiv t (2 ^ 149) * 2 ^ 149

/-- `Y` is `X` dequantized by `M` (`41_tqu.md` R121). -/
def IsDequant (X M Y : Block) : Prop := ∀ e : Fin 64, fl32 (X[e] * M[e]) (2 ^ 149) = some Y[e]

/-- `Y` is the rounded difference of `X` and `Z` (`44_residual_enh.md` R160). -/
def IsDifference (X Z Y : Block) : Prop := ∀ e : Fin 64, fl32 (X[e] - Z[e]) 1 = some Y[e]

/-- `Y` is the rounded sum of `X` and `Z` (`44_residual_enh.md` R161). -/
def IsSum (X Z Y : Block) : Prop := ∀ e : Fin 64, fl32 (X[e] + Z[e]) 1 = some Y[e]

/-- `Z` is the base-layer reconstruction of a block of samples (`43_base_frame.md` R152). -/
def IsBaseBlock (M X Z : Block) : Prop :=
  ∃ Y Q D : Block, IsForward X Y ∧ IsQuant Y M Q ∧ IsDequant Q M D ∧ IsInverse D Z

/-- `Q` and `E` are the levels and the unrounded sum of one block of the enhancement layer
(`44_residual_enh.md` R170). -/
def IsEnhancedBlock (M O B Q E : Block) : Prop :=
  ∃ R Y D F : Block, IsDifference O B R ∧ IsForward R Y ∧ IsQuant Y M Q ∧ IsDequant Q M D ∧
    IsInverse D F ∧ IsSum B F E

/-- The unit's state after a command has ended: nothing pending, `BUSY` clear (`10_state.md` R41). -/
def endOf (s : State) : State := { s with pend := none, status := { s.status with busy := false } }

/-- What `raise Fault(code)` leaves (`60_exceptions.md` R214). -/
def faultOf (s : State) (c : FaultCode) : State :=
  { s with
    status := { s.status with err := true, errcode := c.code, busy := false }
    errinfo := s.pend.getD 0
    pend := none }

/-- `BR[k]` written whole with the values `Y`, all 64 valid bits set (`41_tqu.md` R111). -/
def blockWritten (s : State) (k : Fin 4) (Y : Block) : State :=
  { s with
    br := s.br.set k (Vector.ofFn fun e : Fin 64 => enc32 Y[e])
    brv := s.brv.set k (Vector.replicate 64 true) }

/-- The 64 samples of a full block of slot `k`, as values (`42_block_io.md` R142). -/
def samplesAt (s : State) (k : Fin 4) (ch row col : Nat) : Block :=
  Vector.ofFn fun e : Fin 64 => ((Memory.read s.fmem (s.ea k ch row col e)).toNat : Int) * 2 ^ 149

/-- The cursor names a full block of a frame that has a size (`42_block_io.md` R141). -/
def CursorOnBlock (s : State) : Prop :=
  s.width ≠ 0 ∧ s.height ≠ 0 ∧ s.curCh ≠ 3 ∧ 8 * s.curBx + 8 ≤ s.width ∧ 8 * s.curBy + 8 ≤ s.height

/-- The slot fits in FMEM (`20_memory.md` R68). -/
def SlotFits (s : State) (k : Fin 4) : Prop := s.fb[k].toNat + 3 * s.width * s.height ≤ s.fmemSize

/-- Two slots are the same frame or disjoint (`20_memory.md` R68). -/
def Compatible (s : State) (i j : Fin 4) : Prop :=
  s.fb[i] = s.fb[j] ∨ s.fb[i].toNat + 3 * s.width * s.height ≤ s.fb[j].toNat ∨
    s.fb[j].toNat + 3 * s.width * s.height ≤ s.fb[i].toNat

/-- The frame passes the checks of BASEF and ENHF that come before the block results, for the destination
`d` and the sources `ks` (`43_base_frame.md` R150). -/
def FrameOk (s : State) (d : Fin 4) (ks : List (Fin 4)) : Prop :=
  s.width ≠ 0 ∧ s.height ≠ 0 ∧ (∀ k ∈ d :: ks, SlotFits s k) ∧ ∀ k ∈ ks, Compatible s k d

/-- Channel `ch`, block row `row`, block column `col` name a full block of the frame (`43_base_frame.md` R151). -/
def IsFullBlock (s : State) (ch row col : Nat) : Prop := ch < 3 ∧ 8 * row + 8 ≤ s.height ∧ 8 * col + 8 ≤ s.width

/-- Channel `ch`, row `y`, column `x` name a sample of the frame that lies in no full block
(`43_base_frame.md` R151). -/
def IsEdgeSample (s : State) (ch y x : Nat) : Prop :=
  ch < 3 ∧ y < s.height ∧ x < s.width ∧ (8 * (s.width / 8) ≤ x ∨ 8 * (s.height / 8) ≤ y)

/-- `STATUS` with the `EdgeBlockSkipped` warning of a frame command added (`10_state.md` R38). -/
def edgeWarned (s : State) : Status :=
  { s.status with edge := s.status.edge || decide (s.width % 8 ≠ 0) || decide (s.height % 8 ≠ 0) }

/-- The effect of a pair-step that read the Frames `ta` and `tb` (`45_combiner.md` R189). -/
def pairEmitted (s : State) (ta tb : FrameToken) : State :=
  { s with
    ina := { s.ina with pos := s.ina.pos + 1, ready := false }
    inb := { s.inb with pos := s.inb.pos + 1, ready := false }
    outl := { s.outl with frames := s.outl.frames ++ [ta] }
    outh := { s.outh with frames := s.outh.frames ++ [tb] }
    outf := { s.outf with frames := s.outf.frames ++ [tb] }
    lcount := s.lcount + 1 }

/-- The effect of a pair-step that read at least one `EOS` (`45_combiner.md` R189). -/
def pairEnded (s : State) : State :=
  { s with
    ina := { s.ina with pos := s.ina.pos + 1, ready := false }
    inb := { s.inb with pos := s.inb.pos + 1, ready := false }
    outl := { s.outl with opened := false }
    outh := { s.outh with opened := false }
    outf := { s.outf with opened := false }
    lstat := { s.lstat with
      eosa := decide (s.ina.frames.length ≤ s.ina.pos)
      eosb := decide (s.inb.frames.length ≤ s.inb.pos)
      state := .closed } }

/-- The unit steps of a list of commands, first first, the producers setting `ready` before each
(`45_combiner.md` R190, R191). -/
def runReady : List Instr → State → Host.Outcome State Fault Refusal
  | [], s => .next s
  | i :: rest, s =>
    match exec i { s with ina := { s.ina with ready := true }, inb := { s.inb with ready := true } } with
    | .next t => runReady rest t
    | .fault r => .fault r
    | .refused r => .refused r

/-- The step is the unit's turn with CLRERR pending, the return from the fault state (`60_exceptions.md` R217). -/
def clearsNext (s : State) : Prop :=
  s.pend = some Config.clrerrWord ∧ (s.agenda = [] ∨ ∃ rest, s.agenda = .unit :: rest)

/-- The state of the TQU, RSU and FSQ (`10_state.md` R49). -/
def SameDatapath (s t : State) : Prop :=
  t.br = s.br ∧ t.brv = s.brv ∧ t.qm = s.qm ∧ t.dim = s.dim ∧ t.cur = s.cur ∧ t.fb = s.fb ∧
    t.bdepth = s.bdepth ∧ t.fmem = s.fmem

/-- The state of the LSC and the ports (`10_state.md` R49). -/
def SameCombiner (s t : State) : Prop :=
  t.lstat = s.lstat ∧ t.lcount = s.lcount ∧ t.inaDim = s.inaDim ∧ t.inaFps = s.inaFps ∧
    t.inbDim = s.inbDim ∧ t.inbFps = s.inbFps ∧ t.ina = s.ina ∧ t.inb = s.inb ∧ t.outl = s.outl ∧
    t.outh = s.outh ∧ t.outf = s.outf

/-- The commands of the LSC (`45_combiner.md`). -/
def isCombinerCommand : Instr → Bool
  | .linit | .lopen | .lstep | .lrun => true
  | .nop | .clrerr | .sreset | .fdct _ _ | .idct _ _ | .quant _ _ _ | .dequant _ _ _ | .clip _ _
  | .sub _ _ _ | .add _ _ _ | .bitdep _ | .ldb _ _ | .stb _ _ | .qmfill _ _ | .basef _ _ _
  | .enhf _ _ _ _ => false

/-- What every step of the machine keeps. -/
structure Inv (s : State) : Prop where
  /-- `BUSY` is 1 exactly when a command is pending (`10_state.md` R36). -/
  busy_iff : s.status.busy = s.pend.isSome
  /-- The fault record is 0 when there is no fault (`10_state.md` R37, R40). -/
  no_fault : s.status.err = false → s.status.errcode = 0 ∧ s.errinfo = 0
  /-- `ERRCODE` is one of the seven codes when there is a fault (`60_exceptions.md` R211). -/
  code_known : s.status.err = true → 1 ≤ s.status.errcode.toNat ∧ s.status.errcode.toNat ≤ 7
  /-- SRESET is never pending (`46_system.md` R202). -/
  no_sreset : s.pend ≠ some Config.sresetWord
  /-- While `ERR = 1` only CLRERR can be pending (`60_exceptions.md` R218). -/
  fault_lock : s.status.err = true → s.pend = none ∨ s.pend = some Config.clrerrWord
  /-- `Finalizing` is never reached (`10_state.md` R45). -/
  no_finalizing : s.lstat.state ≠ .finalizing
  /-- `Opening` lasts only while LOPEN is pending (`45_combiner.md` R182). -/
  opening_pend : s.lstat.state = .opening → s.pend = some Config.lopenWord
  /-- The flags of `LSTAT` are set only by the end of a run (`45_combiner.md` R181). -/
  flags_closed : (s.lstat.openerr || s.lstat.eosa || s.lstat.eosb || s.lstat.faila || s.lstat.failb) = true →
    s.lstat.state = .closed
  /-- An open-error names the input that failed (`45_combiner.md` R186). -/
  openerr_iff : s.lstat.openerr = (s.lstat.faila || s.lstat.failb)
  /-- The zero bits of `CUR` are 0 (`10_state.md` R32). -/
  cur_zero : s.cur &&& ~~~curMask = 0
  /-- FMEM is in its canonical form. -/
  fmem_wf : Memory.wf s.fmem = true
  /-- FMEM holds no byte at or beyond `FMEM_SIZE` (`10_state.md` R53). -/
  fmem_bound : ∀ c ∈ s.fmem, c.1 < s.fmemSize

/-- `BDEPTH` is in its range (`10_state.md` R34). -/
def DepthInRange (s : State) : Prop := -148 ≤ s.bdepth.toInt ∧ s.bdepth.toInt ≤ 128

/-- The step answers a next state: no agent asked for something the spec gives no meaning. -/
def SafeStep (s : State) : Prop := ∃ t, step s = .next t

/-- The reset operation is part of the step: the reset input, an SRESET word written to `CMD`, or an SRESET
word run by the unit (`10_state.md` R56). -/
def resetsNext (s : State) : Bool :=
  match s.agenda with
  | [] => s.pend == some Config.sresetWord
  | .unit :: _ => s.pend == some Config.sresetWord
  | .resetInput _ :: _ => true
  | .hrsWrite width off w :: _ => width == .word && off == 4 && w == Config.sresetWord
  | .hrsRead _ _ :: _ => false
  | .fmemRead _ _ :: _ => false
  | .fmemWrite _ _ _ :: _ => false
  | .producerReady _ :: _ => false
  | .attach _ _ _ _ _ :: _ => false

end Sys2Proof.Machine
end

