-- ==== Sys2Proof/Certificates/Slice0/Obligations.lean ====
section
/-!
DEFINITION. The statements for the provers. Each docstring names the rule of spec/ it formalises. Every
statement is about every state, unless it names an invariant as a hypothesis.
-/

open Sys2Proof Sys2Proof.Machine

/-! ### Encoding -/

/-- Decoding the word of a well-formed command gives the command back (`30_encoding.md` R86, R90). -/
def Obligations.DecodeOfEncode : Prop :=
  ∀ i : Instr, i.wellFormed = true → decode (encode i) = .ok i

/-- A word that decodes is the word of the command it decodes to, and that command is well formed
(`30_encoding.md` R81, R82, R84). -/
def Obligations.EncodeOfDecode : Prop :=
  ∀ (w : Word) (i : Instr), decode w = .ok i → encode i = w ∧ i.wellFormed = true

/-- A word decodes to a command whose row it matches, or it is rejected and matches no row
(`30_encoding.md` R86, R87). -/
def Obligations.DecodeAcceptsExactlyTheTable : Prop :=
  ∀ w : Word,
    (∃ i, decode w = .ok i ∧ i.row ∈ opcodeTable ∧ w &&& i.row.mask = i.row.matchWord) ∨
    ((∃ r, decode w = .error r) ∧ ∀ row ∈ opcodeTable, w &&& row.mask ≠ row.matchWord)

/-- Words of the spec's table of worked encodings decode to their commands (`30_encoding.md` R92). -/
def Obligations.WorkedEncodingsDecode : Prop :=
  decode 0x10100000#32 = .ok (.fdct 1 0) ∧ decode 0x13111000#32 = .ok (.dequant 1 1 1) ∧
  decode 0x18201000#32 = .ok (.sub 2 0 1) ∧ decode 0x1A020000#32 = .ok (.bitdep 2) ∧
  decode 0x21100000#32 = .ok (.stb 1 0) ∧ decode 0x28100004#32 = .ok (.qmfill 1 4) ∧
  decode 0x30100000#32 = .ok (.basef 1 0 0) ∧ decode 0x31201001#32 = .ok (.enhf 2 0 1 1) ∧
  decode 0x41000000#32 = .ok .lopen ∧ decode 0x43000000#32 = .ok .lrun

/-! ### The step, the fault and the reset -/

/-- With the unit's turn next: a pending word that decodes is run, the step being the command's meaning
(`10_state.md` R41); a pending word that matches no row faults with `E_ILLEGAL` (`30_encoding.md` R87); with
nothing pending the unit does nothing and keeps all its state (`60_exceptions.md` R232). The agenda is the
model's own (notes/assumptions/4). -/
def Obligations.StepRunsPendingCommand : Prop :=
  ∀ s : State,
    (∀ (w : Word) (i : Instr), s.pend = some w → decode w = .ok i →
      (s.agenda = [] → step s = exec i s) ∧
      (∀ rest, s.agenda = .unit :: rest → step s = exec i { s with agenda := rest })) ∧
    (∀ w : Word, s.pend = some w → (∀ row ∈ opcodeTable, w &&& row.mask ≠ row.matchWord) →
      (s.agenda = [] → step s = .next (faultOf s .illegal)) ∧
      (∀ rest, s.agenda = .unit :: rest → step s = .next (faultOf { s with agenda := rest } .illegal))) ∧
    (s.pend = none →
      (s.agenda = [] → step s = .next s) ∧
      (∀ rest, s.agenda = .unit :: rest → step s = .next { s with agenda := rest }))

/-- A pending word that matches no row of the opcode table faults with `E_ILLEGAL` when the unit takes it, and
does nothing else (`30_encoding.md` R87). -/
def Obligations.IllegalWordFaults : Prop :=
  ∀ (s : State) (w : Word), s.pend = some w →
    (∀ row ∈ opcodeTable, w &&& row.mask ≠ row.matchWord) →
    s.unitTurn = .next { s with
      status := { s.status with err := true, errcode := 0x01#8, busy := false }
      errinfo := w
      pend := none }

/-- Fault entry records the code and the word, ends the command and changes nothing else
(`60_exceptions.md` R214). The causes and their codes are all seven of the table of R211. -/
def Obligations.FaultEntryRecord : Prop :=
  ∀ (s : State) (w : Word), s.pend = some w →
    (∀ (c : FaultCode) (code : BitVec 8),
      (c, code) ∈ [(.illegal, 0x01#8), (.uninit, 0x02#8), (.num, 0x03#8), (.qm, 0x04#8), (.geom, 0x05#8),
        (.fmem, 0x06#8), (.state, 0x07#8)] →
      s.takeFault c = { s with
        status := { s.status with err := true, errcode := code, busy := false }
        errinfo := w
        pend := none }) ∧
    ∀ c : FaultCode, c = .illegal ∨ c = .uninit ∨ c = .num ∨ c = .qm ∨ c = .geom ∨ c = .fmem ∨ c = .state

/-- Every command answers a next state in every state: it completes, faults or holds, and stops nothing
(`70_reset_and_hazards.md` R254). R8 of `00_scope.md` counts a hold and a fault as outcomes of their own: that
each is a next state here is the model's form (notes/assumptions/6, notes/assumptions/15). -/
def Obligations.EveryCommandAnswersNext : Prop :=
  ∀ (i : Instr) (s : State), ∃ t, exec i s = .next t

/-- The reset input, whatever FMEM holds after it: every element of R55 at its value, the ports kept, FMEM
the bytes drawn, which can be any at all (`10_state.md` R55, R53, R57). The words of the invalid block
elements are the model's choice and are not stated (notes/assumptions/7); the agenda that brings the event is
the model's own (notes/assumptions/4). -/
def Obligations.ResetInputLeavesResetValues : Prop :=
  ∀ (s : State) (drawn : List Host.Cell) (rest : List Event), s.agenda = .resetInput drawn :: rest →
    ∃ t, step s = .next t ∧ (∀ (k : Fin 4) (e : Fin 64), t.brv[k][e] = false) ∧
      (∀ e : Fin 64, t.qm[0][e] = 0x41800000#32 ∧ t.qm[1][e] = 0x40800000#32) ∧
      t.dim = 0 ∧ t.cur = 0 ∧ (∀ k : Fin 4, t.fb[k] = 0) ∧ t.bdepth = 0 ∧ t.status.word = 0 ∧
      t.errinfo = 0 ∧ t.pend = none ∧ t.lstat.word = 0 ∧ t.lcount = 0 ∧ t.inaDim = 0 ∧ t.inaFps = 0 ∧
      t.inbDim = 0 ∧ t.inbFps = 0 ∧ t.ina = s.ina ∧ t.inb = s.inb ∧ t.outl = s.outl ∧ t.outh = s.outh ∧
      t.outf = s.outf ∧ t.agenda = rest ∧ t.fmemSize = s.fmemSize ∧ Memory.wf t.fmem = true ∧
      (∀ c ∈ t.fmem, c.1 < s.fmemSize) ∧
      ∀ content : Nat → Byte, drawn = (List.range s.fmemSize).map (fun a => (a, content a)) →
        ∀ a, a < s.fmemSize → Memory.read t.fmem a = content a

/-- The SRESET word written to `CMD`, and SRESET run by the unit, in every state: every element of R55 at
its value, FMEM and the ports kept (`46_system.md` R202, `10_state.md` R56, R57). The spec's SRESET is never
pending: that the unit would run it so is the model's choice (notes/assumptions/11). -/
def Obligations.SresetResets : Prop :=
  ∀ s : State, ∃ t, exec .sreset s = .next t ∧ s.hrsWrite .word 0x004 0x02000000#32 = .next t ∧
    (∀ (k : Fin 4) (e : Fin 64), t.brv[k][e] = false) ∧
    (∀ e : Fin 64, t.qm[0][e] = 0x41800000#32 ∧ t.qm[1][e] = 0x40800000#32) ∧
    t.dim = 0 ∧ t.cur = 0 ∧ (∀ k : Fin 4, t.fb[k] = 0) ∧ t.bdepth = 0 ∧ t.status.word = 0 ∧
    t.errinfo = 0 ∧ t.pend = none ∧ t.lstat.word = 0 ∧ t.lcount = 0 ∧ t.inaDim = 0 ∧ t.inaFps = 0 ∧
    t.inbDim = 0 ∧ t.inbFps = 0 ∧ t.fmem = s.fmem ∧ t.fmemSize = s.fmemSize ∧ t.ina = s.ina ∧
    t.inb = s.inb ∧ t.outl = s.outl ∧ t.outh = s.outh ∧ t.outf = s.outf ∧ t.agenda = s.agenda ∧
    t.rdata = s.rdata ∧ t.draws = s.draws

/-! ### System and configuration commands -/

/-- NOP does nothing but end (`46_system.md` R200). -/
def Obligations.NopOnlyEnds : Prop :=
  ∀ s : State, exec .nop s = .next { s with pend := none, status := { s.status with busy := false } }

/-- CLRERR clears `ERR`, `ERRCODE`, `EDGE`, `HZD` and `ERRINFO` and nothing else (`46_system.md` R201). -/
def Obligations.ClrerrClearsTheRecord : Prop :=
  ∀ s : State, exec .clrerr s = .next { s with
    pend := none, errinfo := 0
    status := { busy := false, err := false, edge := false, hzd := false, errcode := 0 } }

/-- QMFILL: every entry of the matrix becomes the scale, exactly; 0 faults `E_QM`; a bad selector faults
`E_ILLEGAL` (`40_config.md` R101). -/
def Obligations.QmfillOutcome : Prop :=
  ∀ (s : State) (n : BitVec 16),
    (∀ qk : Sel, ¬ qk.toNat < 2 → exec (.qmfill qk n) s = .next (faultOf s .illegal)) ∧
    (∀ q : Fin 2, n = 0 → exec (.qmfill (sel q) n) s = .next (faultOf s .qm)) ∧
    (∀ q : Fin 2, n ≠ 0 → ∃ w : Word, finite32 w = true ∧ dec32 w = (n.toNat : Int) * 2 ^ 149 ∧
      exec (.qmfill (sel q) n) s = .next (endOf { s with qm := s.qm.set q (Vector.replicate 64 w) }))

/-! ### The transform-quantization unit -/

/-- FDCT: its faults in order, and its result under `XF_REF` (`41_tqu.md` R118). -/
def Obligations.FdctOutcome : Prop :=
  ∀ s : State,
    (∀ rd ra : Sel, ¬ (rd.toNat < 4 ∧ ra.toNat < 4) → exec (.fdct rd ra) s = .next (faultOf s .illegal)) ∧
    ∀ d a : Fin 4,
      (¬ AllValid s a → exec (.fdct (sel d) (sel a)) s = .next (faultOf s .uninit)) ∧
      (AllValid s a → ¬ AllFinite s a → exec (.fdct (sel d) (sel a)) s = .next (faultOf s .num)) ∧
      (AllValid s a → AllFinite s a → (¬ ∃ Y, IsForward (valuesOf s a) Y) →
        exec (.fdct (sel d) (sel a)) s = .next (faultOf s .num)) ∧
      (∀ Y, AllValid s a → AllFinite s a → IsForward (valuesOf s a) Y →
        exec (.fdct (sel d) (sel a)) s = .next (endOf (blockWritten s d Y)))

/-- IDCT: its faults in order, and its result under `XF_REF` (`41_tqu.md` R119). -/
def Obligations.IdctOutcome : Prop :=
  ∀ s : State,
    (∀ rd ra : Sel, ¬ (rd.toNat < 4 ∧ ra.toNat < 4) → exec (.idct rd ra) s = .next (faultOf s .illegal)) ∧
    ∀ d a : Fin 4,
      (¬ AllValid s a → exec (.idct (sel d) (sel a)) s = .next (faultOf s .uninit)) ∧
      (AllValid s a → ¬ AllFinite s a → exec (.idct (sel d) (sel a)) s = .next (faultOf s .num)) ∧
      (AllValid s a → AllFinite s a → (¬ ∃ X, IsInverse (valuesOf s a) X) →
        exec (.idct (sel d) (sel a)) s = .next (faultOf s .num)) ∧
      (∀ X, AllValid s a → AllFinite s a → IsInverse (valuesOf s a) X →
        exec (.idct (sel d) (sel a)) s = .next (endOf (blockWritten s d X)))

/-- QUANT: its faults in order, the block before the matrix, and its result (`41_tqu.md` R120). -/
def Obligations.QuantOutcome : Prop :=
  ∀ s : State,
    (∀ rd ra qk : Sel, ¬ (rd.toNat < 4 ∧ ra.toNat < 4 ∧ qk.toNat < 2) →
      exec (.quant rd ra qk) s = .next (faultOf s .illegal)) ∧
    ∀ (d a : Fin 4) (q : Fin 2),
      (¬ AllValid s a → exec (.quant (sel d) (sel a) (sel q)) s = .next (faultOf s .uninit)) ∧
      (AllValid s a → ¬ AllFinite s a →
        exec (.quant (sel d) (sel a) (sel q)) s = .next (faultOf s .num)) ∧
      (AllValid s a → AllFinite s a → ¬ MatrixReady s q →
        exec (.quant (sel d) (sel a) (sel q)) s = .next (faultOf s .qm)) ∧
      (AllValid s a → AllFinite s a → MatrixReady s q →
        (¬ ∃ Y, IsQuant (valuesOf s a) (entriesOf s q) Y) →
        exec (.quant (sel d) (sel a) (sel q)) s = .next (faultOf s .num)) ∧
      (∀ Y, AllValid s a → AllFinite s a → MatrixReady s q →
        IsQuant (valuesOf s a) (entriesOf s q) Y →
        exec (.quant (sel d) (sel a) (sel q)) s = .next (endOf (blockWritten s d Y)))

/-- DEQUANT: its faults in order and its result (`41_tqu.md` R121). -/
def Obligations.DequantOutcome : Prop :=
  ∀ s : State,
    (∀ rd ra qk : Sel, ¬ (rd.toNat < 4 ∧ ra.toNat < 4 ∧ qk.toNat < 2) →
      exec (.dequant rd ra qk) s = .next (faultOf s .illegal)) ∧
    ∀ (d a : Fin 4) (q : Fin 2),
      (¬ AllValid s a → exec (.dequant (sel d) (sel a) (sel q)) s = .next (faultOf s .uninit)) ∧
      (AllValid s a → ¬ AllFinite s a →
        exec (.dequant (sel d) (sel a) (sel q)) s = .next (faultOf s .num)) ∧
      (AllValid s a → AllFinite s a → ¬ MatrixReady s q →
        exec (.dequant (sel d) (sel a) (sel q)) s = .next (faultOf s .qm)) ∧
      (AllValid s a → AllFinite s a → MatrixReady s q →
        (¬ ∃ Y, IsDequant (valuesOf s a) (entriesOf s q) Y) →
        exec (.dequant (sel d) (sel a) (sel q)) s = .next (faultOf s .num)) ∧
      (∀ Y, AllValid s a → AllFinite s a → MatrixReady s q →
        IsDequant (valuesOf s a) (entriesOf s q) Y →
        exec (.dequant (sel d) (sel a) (sel q)) s = .next (endOf (blockWritten s d Y)))

/-- CLIP: its faults in order, and each lane clamped to 0 to 255 without rounding (`41_tqu.md` R122). -/
def Obligations.ClipOutcome : Prop :=
  ∀ s : State,
    (∀ rd ra : Sel, ¬ (rd.toNat < 4 ∧ ra.toNat < 4) → exec (.clip rd ra) s = .next (faultOf s .illegal)) ∧
    ∀ d a : Fin 4,
      (¬ AllValid s a → exec (.clip (sel d) (sel a)) s = .next (faultOf s .uninit)) ∧
      (AllValid s a → ¬ AllFinite s a → exec (.clip (sel d) (sel a)) s = .next (faultOf s .num)) ∧
      (AllValid s a → AllFinite s a → exec (.clip (sel d) (sel a)) s =
        .next (endOf (blockWritten s d
          (Vector.ofFn fun e : Fin 64 => min (max (dec32 s.br[a][e]) 0) (255 * 2 ^ 149)))))

/-! ### Residual arithmetic -/

/-- SUB: `ra` is checked completely before `rb`; each lane is the difference rounded once
(`44_residual_enh.md` R160). -/
def Obligations.SubOutcome : Prop :=
  ∀ s : State,
    (∀ rd ra rb : Sel, ¬ (rd.toNat < 4 ∧ ra.toNat < 4 ∧ rb.toNat < 4) →
      exec (.sub rd ra rb) s = .next (faultOf s .illegal)) ∧
    ∀ d a b : Fin 4,
      (¬ AllValid s a → exec (.sub (sel d) (sel a) (sel b)) s = .next (faultOf s .uninit)) ∧
      (AllValid s a → ¬ AllFinite s a → exec (.sub (sel d) (sel a) (sel b)) s = .next (faultOf s .num)) ∧
      (AllValid s a → AllFinite s a → ¬ AllValid s b →
        exec (.sub (sel d) (sel a) (sel b)) s = .next (faultOf s .uninit)) ∧
      (AllValid s a → AllFinite s a → AllValid s b → ¬ AllFinite s b →
        exec (.sub (sel d) (sel a) (sel b)) s = .next (faultOf s .num)) ∧
      (AllValid s a → AllFinite s a → AllValid s b → AllFinite s b →
        (¬ ∃ Y, IsDifference (valuesOf s a) (valuesOf s b) Y) →
        exec (.sub (sel d) (sel a) (sel b)) s = .next (faultOf s .num)) ∧
      (∀ Y, AllValid s a → AllFinite s a → AllValid s b → AllFinite s b →
        IsDifference (valuesOf s a) (valuesOf s b) Y →
        exec (.sub (sel d) (sel a) (sel b)) s = .next (endOf (blockWritten s d Y)))

/-- ADD: as SUB, each lane the sum rounded once and not clamped (`44_residual_enh.md` R161). -/
def Obligations.AddOutcome : Prop :=
  ∀ s : State,
    (∀ rd ra rb : Sel, ¬ (rd.toNat < 4 ∧ ra.toNat < 4 ∧ rb.toNat < 4) →
      exec (.add rd ra rb) s = .next (faultOf s .illegal)) ∧
    ∀ d a b : Fin 4,
      (¬ AllValid s a → exec (.add (sel d) (sel a) (sel b)) s = .next (faultOf s .uninit)) ∧
      (AllValid s a → ¬ AllFinite s a → exec (.add (sel d) (sel a) (sel b)) s = .next (faultOf s .num)) ∧
      (AllValid s a → AllFinite s a → ¬ AllValid s b →
        exec (.add (sel d) (sel a) (sel b)) s = .next (faultOf s .uninit)) ∧
      (AllValid s a → AllFinite s a → AllValid s b → ¬ AllFinite s b →
        exec (.add (sel d) (sel a) (sel b)) s = .next (faultOf s .num)) ∧
      (AllValid s a → AllFinite s a → AllValid s b → AllFinite s b →
        (¬ ∃ Y, IsSum (valuesOf s a) (valuesOf s b) Y) →
        exec (.add (sel d) (sel a) (sel b)) s = .next (faultOf s .num)) ∧
      (∀ Y, AllValid s a → AllFinite s a → AllValid s b → AllFinite s b →
        IsSum (valuesOf s a) (valuesOf s b) Y →
        exec (.add (sel d) (sel a) (sel b)) s = .next (endOf (blockWritten s d Y)))

/-- BITDEP: its faults in order; otherwise it writes `BDEPTH` only (`44_residual_enh.md` R166). -/
def Obligations.BitdepOutcome : Prop :=
  ∀ s : State,
    (∀ ra : Sel, ¬ ra.toNat < 4 → exec (.bitdep ra) s = .next (faultOf s .illegal)) ∧
    ∀ a : Fin 4,
      (¬ AllValid s a → exec (.bitdep (sel a)) s = .next (faultOf s .uninit)) ∧
      (AllValid s a → ¬ AllFinite s a → exec (.bitdep (sel a)) s = .next (faultOf s .num)) ∧
      (AllValid s a → AllFinite s a → exec (.bitdep (sel a)) s =
        .next (endOf { s with bdepth := BitVec.ofInt 32 (bitdepth (valuesOf s a)) }))

/-- The bit-depth estimate: 0 for the zero block; otherwise `b` with `2^(b-1) ≤ max < 2^b` in units of 1.0
(`44_residual_enh.md` R164). The largest value is 128. -/
def Obligations.BitdepthCountsTheLargestMagnitude : Prop :=
  ∀ X : Block,
    ((∀ e : Fin 64, X[e] = 0) → bitdepth X = 0) ∧
    ((∃ e : Fin 64, X[e] ≠ 0) → -148 ≤ bitdepth X ∧
      (∃ e : Fin 64, 2 ^ (bitdepth X + 148).toNat ≤ X[e].natAbs) ∧
      ∀ e : Fin 64, X[e].natAbs < 2 ^ (bitdepth X + 149).toNat) ∧
    ((∀ e : Fin 64, inF32 X[e] = true) → bitdepth X ≤ 128)

/-! ### Block load and store -/

/-- The address of every sample of a frame slot (`20_memory.md` R67), of every element of every block of it
(`42_block_io.md` R140), and the fields of `DIM` and `CUR` they are formed from (`10_state.md` R31, R32). -/
def Obligations.EffectiveAddress : Prop :=
  ∀ s : State,
    (s.width = s.dim.toNat % 2 ^ 16 ∧ s.height = s.dim.toNat / 2 ^ 16) ∧
    (s.curBx = s.cur.toNat % 2 ^ 13 ∧ s.curBy = s.cur.toNat / 2 ^ 16 % 2 ^ 13 ∧
      s.curCh = s.cur.toNat / 2 ^ 30) ∧
    (∀ (k : Fin 4) (ch y x : Nat),
      s.addr k ch y x = s.fb[k].toNat + (ch * s.height + y) * s.width + x) ∧
    ∀ (k : Fin 4) (ch row col : Nat) (r c : Fin 8) (e : Fin 64), e.val = 8 * r.val + c.val →
      s.ea k ch row col e =
        s.fb[k].toNat + (ch * s.height + 8 * row + r) * s.width + 8 * col + c

/-- LDB: its faults in order; otherwise each element is the byte at its address, exactly
(`42_block_io.md` R142, R141). -/
def Obligations.LdbOutcome : Prop :=
  ∀ s : State,
    (∀ rd fs : Sel, ¬ (rd.toNat < 4 ∧ fs.toNat < 4) → exec (.ldb rd fs) s = .next (faultOf s .illegal)) ∧
    ∀ d k : Fin 4,
      (¬ CursorOnBlock s → exec (.ldb (sel d) (sel k)) s = .next (faultOf s .geom)) ∧
      (CursorOnBlock s → ¬ SlotFits s k → exec (.ldb (sel d) (sel k)) s = .next (faultOf s .fmem)) ∧
      (CursorOnBlock s → SlotFits s k → exec (.ldb (sel d) (sel k)) s =
        .next (endOf (blockWritten s d (samplesAt s k s.curCh s.curBy s.curBx))))

/-- STB: its faults in order; otherwise the 64 bytes of the block at the cursor become the clamped and
rounded elements, and every other byte of FMEM and everything else is kept (`42_block_io.md` R143). -/
def Obligations.StbOutcome : Prop :=
  ∀ s : State,
    (∀ fd rs : Sel, ¬ (fd.toNat < 4 ∧ rs.toNat < 4) → exec (.stb fd rs) s = .next (faultOf s .illegal)) ∧
    ∀ k a : Fin 4,
      (¬ AllValid s a → exec (.stb (sel k) (sel a)) s = .next (faultOf s .uninit)) ∧
      (AllValid s a → ¬ AllFinite s a → exec (.stb (sel k) (sel a)) s = .next (faultOf s .num)) ∧
      (AllValid s a → AllFinite s a → ¬ CursorOnBlock s →
        exec (.stb (sel k) (sel a)) s = .next (faultOf s .geom)) ∧
      (AllValid s a → AllFinite s a → CursorOnBlock s → ¬ SlotFits s k →
        exec (.stb (sel k) (sel a)) s = .next (faultOf s .fmem)) ∧
      (AllValid s a → AllFinite s a → CursorOnBlock s → SlotFits s k → Memory.wf s.fmem = true →
        ∃ m, exec (.stb (sel k) (sel a)) s = .next (endOf { s with fmem := m }) ∧ Memory.wf m = true ∧
          (∀ e : Fin 64, Memory.read m (s.ea k s.curCh s.curBy s.curBx e) = toU8 (dec32 s.br[a][e])) ∧
          ∀ b, (∀ e : Fin 64, b ≠ s.ea k s.curCh s.curBy s.curBx e) →
            Memory.read m b = Memory.read s.fmem b)

/-! ### Frame commands -/

/-- BASEF: its faults in order; otherwise every full block becomes its reconstruction, every edge sample its
source, every byte outside the destination slot is kept, and `EDGE` is set when a dimension is not a
multiple of 8 (`43_base_frame.md` R152, R150, R151, R153). -/
def Obligations.BasefOutcome : Prop :=
  ∀ s : State,
    (∀ fd fs qk : Sel, ¬ (fd.toNat < 4 ∧ fs.toNat < 4 ∧ qk.toNat < 2) →
      exec (.basef fd fs qk) s = .next (faultOf s .illegal)) ∧
    ∀ (d k : Fin 4) (q : Fin 2),
      (¬ MatrixReady s q → exec (.basef (sel d) (sel k) (sel q)) s = .next (faultOf s .qm)) ∧
      (MatrixReady s q → s.width = 0 ∨ s.height = 0 →
        exec (.basef (sel d) (sel k) (sel q)) s = .next (faultOf s .geom)) ∧
      (MatrixReady s q → s.width ≠ 0 → s.height ≠ 0 → ¬ FrameOk s d [k] →
        exec (.basef (sel d) (sel k) (sel q)) s = .next (faultOf s .fmem)) ∧
      (MatrixReady s q → FrameOk s d [k] →
        (∃ ch row col, IsFullBlock s ch row col ∧
          ¬ ∃ Z, IsBaseBlock (entriesOf s q) (samplesAt s k ch row col) Z) →
        exec (.basef (sel d) (sel k) (sel q)) s = .next (faultOf s .num)) ∧
      (MatrixReady s q → FrameOk s d [k] → Memory.wf s.fmem = true →
        (∀ ch row col, IsFullBlock s ch row col →
          ∃ Z, IsBaseBlock (entriesOf s q) (samplesAt s k ch row col) Z) →
        ∃ m, exec (.basef (sel d) (sel k) (sel q)) s =
            .next (endOf { s with fmem := m, status := edgeWarned s }) ∧
          Memory.wf m = true ∧
          (∀ ch y x, IsEdgeSample s ch y x →
            Memory.read m (s.addr d ch y x) = Memory.read s.fmem (s.addr k ch y x)) ∧
          (∀ ch row col Z, IsFullBlock s ch row col →
            IsBaseBlock (entriesOf s q) (samplesAt s k ch row col) Z →
            ∀ e : Fin 64, Memory.read m (s.ea d ch row col e) = toU8 Z[e]) ∧
          ∀ b, (b < s.fb[d].toNat ∨ s.fb[d].toNat + 3 * s.width * s.height ≤ b) →
            Memory.read m b = Memory.read s.fmem b)

/-- ENHF: as BASEF on the residual, with the edge samples of the original, and `BDEPTH` the estimate of the
levels of the last full block (`44_residual_enh.md` R170, R171, R165). -/
def Obligations.EnhfOutcome : Prop :=
  ∀ s : State,
    (∀ fd fo fb qk : Sel, ¬ (fd.toNat < 4 ∧ fo.toNat < 4 ∧ fb.toNat < 4 ∧ qk.toNat < 2) →
      exec (.enhf fd fo fb qk) s = .next (faultOf s .illegal)) ∧
    ∀ (d o b : Fin 4) (q : Fin 2),
      (¬ MatrixReady s q → exec (.enhf (sel d) (sel o) (sel b) (sel q)) s = .next (faultOf s .qm)) ∧
      (MatrixReady s q → s.width = 0 ∨ s.height = 0 →
        exec (.enhf (sel d) (sel o) (sel b) (sel q)) s = .next (faultOf s .geom)) ∧
      (MatrixReady s q → s.width ≠ 0 → s.height ≠ 0 → ¬ FrameOk s d [o, b] →
        exec (.enhf (sel d) (sel o) (sel b) (sel q)) s = .next (faultOf s .fmem)) ∧
      (MatrixReady s q → FrameOk s d [o, b] →
        (∃ ch row col, IsFullBlock s ch row col ∧ ¬ ∃ Q E, IsEnhancedBlock (entriesOf s q)
          (samplesAt s o ch row col) (samplesAt s b ch row col) Q E) →
        exec (.enhf (sel d) (sel o) (sel b) (sel q)) s = .next (faultOf s .num)) ∧
      (MatrixReady s q → FrameOk s d [o, b] → Memory.wf s.fmem = true →
        (∀ ch row col, IsFullBlock s ch row col → ∃ Q E, IsEnhancedBlock (entriesOf s q)
          (samplesAt s o ch row col) (samplesAt s b ch row col) Q E) →
        ∃ m depth, exec (.enhf (sel d) (sel o) (sel b) (sel q)) s =
            .next (endOf { s with fmem := m, bdepth := depth, status := edgeWarned s }) ∧
          Memory.wf m = true ∧
          (∀ ch y x, IsEdgeSample s ch y x →
            Memory.read m (s.addr d ch y x) = Memory.read s.fmem (s.addr o ch y x)) ∧
          (∀ ch row col Q E, IsFullBlock s ch row col → IsEnhancedBlock (entriesOf s q)
            (samplesAt s o ch row col) (samplesAt s b ch row col) Q E →
            ∀ e : Fin 64, Memory.read m (s.ea d ch row col e) = toU8 E[e]) ∧
          (∀ a, (a < s.fb[d].toNat ∨ s.fb[d].toNat + 3 * s.width * s.height ≤ a) →
            Memory.read m a = Memory.read s.fmem a) ∧
          (s.width < 8 ∨ s.height < 8 → depth = s.bdepth) ∧
          (8 ≤ s.width → 8 ≤ s.height → ∀ Q E, IsEnhancedBlock (entriesOf s q)
            (samplesAt s o 2 (s.height / 8 - 1) (s.width / 8 - 1))
            (samplesAt s b 2 (s.height / 8 - 1) (s.width / 8 - 1)) Q E →
            depth = BitVec.ofInt 32 (bitdepth Q)))

/-- The residual identity: an original and a base with equal bytes give a destination equal to the base, and
`BDEPTH` 0 when there is a full block (`44_residual_enh.md` R162, R171). -/
def Obligations.EnhfOfEqualFramesCopies : Prop :=
  ∀ (s : State) (d o b : Fin 4) (q : Fin 2), MatrixReady s q → FrameOk s d [o, b] →
    Memory.wf s.fmem = true →
    (∀ j, j < 3 * s.width * s.height →
      Memory.read s.fmem (s.fb[o].toNat + j) = Memory.read s.fmem (s.fb[b].toNat + j)) →
    ∃ t, exec (.enhf (sel d) (sel o) (sel b) (sel q)) s = .next t ∧ t.status.err = s.status.err ∧
      (∀ j, j < 3 * s.width * s.height →
        Memory.read t.fmem (s.fb[d].toNat + j) = Memory.read s.fmem (s.fb[b].toNat + j)) ∧
      (8 ≤ s.width → 8 ≤ s.height → t.bdepth = 0)

/-- With matrix entries of 2^-100 or more BASEF and ENHF never fault with `E_NUM`: once the frame checks pass
they complete (`43_base_frame.md` R153). -/
def Obligations.OrdinaryMatricesNeverOverflow : Prop :=
  ∀ (s : State) (d o b : Fin 4) (q : Fin 2), MatrixReady s q →
    (∀ e : Fin 64, (2 : Int) ^ 49 ≤ dec32 s.qm[q][e]) →
    (FrameOk s d [o] → ∃ t, exec (.basef (sel d) (sel o) (sel q)) s = .next t ∧
      t.status.err = s.status.err ∧ t.status.errcode = s.status.errcode ∧ t.errinfo = s.errinfo) ∧
    (FrameOk s d [o, b] → ∃ t, exec (.enhf (sel d) (sel o) (sel b) (sel q)) s = .next t ∧
      t.status.err = s.status.err ∧ t.status.errcode = s.status.errcode ∧ t.errinfo = s.errinfo)

/-! ### The combiner -/

/-- LINIT: in `Idle` and `Closed` it clears the LSC's registers and touches no port; otherwise `E_STATE`
(`45_combiner.md` R185). -/
def Obligations.LinitOutcome : Prop :=
  ∀ s : State,
    (s.lstat.state = .idle ∨ s.lstat.state = .closed → exec .linit s = .next (endOf { s with
      lstat := { state := .idle, openerr := false, eosa := false, eosb := false, faila := false, failb := false }
      lcount := 0, inaDim := 0, inaFps := 0, inbDim := 0, inbFps := 0 })) ∧
    (¬ (s.lstat.state = .idle ∨ s.lstat.state = .closed) → exec .linit s = .next (faultOf s .state))

/-- LOPEN: phase 1 from `Idle` to `Opening`, still pending; phase 2 to `Streaming` with the outputs opened, or
to `Closed` with an open-error; otherwise `E_STATE` (`45_combiner.md` R186, R187, R188). -/
def Obligations.LopenOutcome : Prop :=
  ∀ s : State,
    (s.lstat.state ≠ .idle → s.lstat.state ≠ .opening → exec .lopen s = .next (faultOf s .state)) ∧
    (s.lstat.state = .idle →
      exec .lopen s = .next { s with lstat := { s.lstat with state := .opening } }) ∧
    (s.lstat.state = .opening → s.ina.present = true → s.inb.present = true →
      exec .lopen s = .next (endOf { s with
        inaDim := s.ina.info.h ++ s.ina.info.w, inaFps := s.ina.info.fps
        inbDim := s.inb.info.h ++ s.inb.info.w, inbFps := s.inb.info.fps
        outl := { s.outl with opened := true, info := s.ina.info }
        outh := { s.outh with opened := true, info := s.inb.info }
        outf := { s.outf with opened := true, info := s.inb.info }
        lstat := { s.lstat with faila := false, failb := false, state := .streaming } })) ∧
    (s.lstat.state = .opening → ¬ (s.ina.present = true ∧ s.inb.present = true) →
      exec .lopen s = .next (endOf { s with
        inaDim := if s.ina.present then s.ina.info.h ++ s.ina.info.w else s.inaDim
        inaFps := if s.ina.present then s.ina.info.fps else s.inaFps
        inbDim := if s.inb.present then s.inb.info.h ++ s.inb.info.w else s.inbDim
        inbFps := if s.inb.present then s.inb.info.fps else s.inbFps
        lstat := { s.lstat with
          faila := !s.ina.present, failb := !s.inb.present, openerr := true, state := .closed } }))

/-- LSTEP: `E_STATE` unless `Streaming`; a hold while an input is not ready; otherwise one pair-step and the
end of the command (`45_combiner.md` R190, R189). That a hold is a step which changes nothing is the model's
form of it (notes/assumptions/6). -/
def Obligations.LstepOutcome : Prop :=
  ∀ s : State,
    (s.lstat.state ≠ .streaming → exec .lstep s = .next (faultOf s .state)) ∧
    (s.lstat.state = .streaming → ¬ (s.ina.ready = true ∧ s.inb.ready = true) →
      exec .lstep s = .next s) ∧
    (∀ ta tb, s.lstat.state = .streaming → s.ina.ready = true → s.inb.ready = true →
      s.ina.frames[s.ina.pos]? = some ta → s.inb.frames[s.inb.pos]? = some tb →
      exec .lstep s = .next (endOf (pairEmitted s ta tb))) ∧
    (s.lstat.state = .streaming → s.ina.ready = true → s.inb.ready = true →
      (s.ina.frames.length ≤ s.ina.pos ∨ s.inb.frames.length ≤ s.inb.pos) →
      exec .lstep s = .next (endOf (pairEnded s)))

/-- LRUN: as LSTEP, but after a pair-step on two Frames it stays pending (`45_combiner.md` R191, R189). A
hold as in LSTEP (notes/assumptions/6). -/
def Obligations.LrunOutcome : Prop :=
  ∀ s : State,
    (s.lstat.state ≠ .streaming → exec .lrun s = .next (faultOf s .state)) ∧
    (s.lstat.state = .streaming → ¬ (s.ina.ready = true ∧ s.inb.ready = true) →
      exec .lrun s = .next s) ∧
    (∀ ta tb, s.lstat.state = .streaming → s.ina.ready = true → s.inb.ready = true →
      s.ina.frames[s.ina.pos]? = some ta → s.inb.frames[s.inb.pos]? = some tb →
      exec .lrun s = .next (pairEmitted s ta tb)) ∧
    (s.lstat.state = .streaming → s.ina.ready = true → s.inb.ready = true →
      (s.ina.frames.length ≤ s.ina.pos ∨ s.inb.frames.length ≤ s.inb.pos) →
      exec .lrun s = .next (endOf (pairEnded s)))

/-- The combiner length law: from `Streaming` at position 0 of streams of `m` and `n` frames, the run ends
after `min(m, n) + 1` pair-steps, each a unit step of LRUN or an LSTEP, with the first `min(m, n)` frames of
each stream appended to its outputs (`45_combiner.md` R192). -/
def Obligations.CombinerLengthLaw : Prop :=
  ∀ (s : State) (cmds : List Instr), s.lstat.state = .streaming → s.ina.pos = 0 → s.inb.pos = 0 →
    (∀ i ∈ cmds, i = .lrun ∨ i = .lstep) →
    cmds.length = min s.ina.frames.length s.inb.frames.length + 1 →
    ∃ t, runReady cmds s = .next t ∧
      t.lstat.state = .closed ∧ t.pend = none ∧ t.status = { s.status with busy := false } ∧
      t.outl.frames = s.outl.frames ++ s.ina.frames.take (min s.ina.frames.length s.inb.frames.length) ∧
      t.outh.frames = s.outh.frames ++ s.inb.frames.take (min s.ina.frames.length s.inb.frames.length) ∧
      t.outf.frames = s.outf.frames ++ s.inb.frames.take (min s.ina.frames.length s.inb.frames.length) ∧
      t.lcount = s.lcount + BitVec.ofNat 32 (min s.ina.frames.length s.inb.frames.length) ∧
      t.ina.pos = min s.ina.frames.length s.inb.frames.length + 1 ∧
      t.inb.pos = min s.ina.frames.length s.inb.frames.length + 1 ∧
      t.lstat.eosa = decide (s.ina.frames.length ≤ s.inb.frames.length) ∧
      t.lstat.eosb = decide (s.inb.frames.length ≤ s.ina.frames.length)

/-! ### Numbers and the transform -/

/-- `fl32` answers a member of `F32` nearest to the fraction; a fraction halfway between two multiples of the
spacing at its magnitude goes to the even multiple; and every member of `F32` rounds to itself
(`00_scope.md` R11). -/
def Obligations.RoundingIsNearest : Prop :=
  (∀ (num : Int) (den : Nat) (v : Int), 0 < den → fl32 num den = some v →
    inF32 v = true ∧ ∀ w : Int, inF32 w = true → |v * den - num| ≤ |w * den - num|) ∧
  (∀ (num : Int) (den n : Nat) (v : Int), 0 < den → fl32 num den = some v →
    2 * num.natAbs = (2 * n + 1) * 2 ^ scale32 (num.natAbs / den) * den →
    ∃ m : Nat, v.natAbs = 2 * m * 2 ^ scale32 (num.natAbs / den)) ∧
  (∀ (den : Nat) (v : Int), 0 < den → inF32 v = true → fl32 (v * den) den = some v)

/-- `fl32` answers `OVERFLOW` exactly from half a spacing above the largest finite value
(`00_scope.md` R11). -/
def Obligations.OverflowThreshold : Prop :=
  ∀ (num : Int) (den : Nat), 0 < den →
    (fl32 num den = none ↔ (2 ^ 277 - 2 ^ 252) * den ≤ num.natAbs)

/-- `enc32` and `dec32` are inverse on `F32` and on the finite words other than `0x80000000`
(`00_scope.md` R10). -/
def Obligations.WordsAndValuesAgree : Prop :=
  (∀ v : Int, inF32 v = true →
    finite32 (enc32 v) = true ∧ dec32 (enc32 v) = v ∧ enc32 v ≠ 0x80000000#32) ∧
  (∀ b : Word, finite32 b = true →
    inF32 (dec32 b) = true ∧ (b ≠ 0x80000000#32 → enc32 (dec32 b) = b))

/-- A stored sample is the clamped value rounded to the nearest integer, ties to even (`00_scope.md` R12). -/
def Obligations.StoredSampleIsNearest : Prop :=
  ∀ (v n : Int), 0 ≤ n → n ≤ 255 →
    (2 * |min (max v 0) (255 * 2 ^ 149) - n * 2 ^ 149| < 2 ^ 149 → ((toU8 v).toNat : Int) = n) ∧
    (2 * |min (max v 0) (255 * 2 ^ 149) - n * 2 ^ 149| = 2 ^ 149 → n % 2 = 0 → ((toU8 v).toNat : Int) = n)

/-- The two exact facts about `XF_REF`: a constant block has only a DC coefficient, and a DC-only block is
constant; the constant 128 gives the DC `0x447FFFFF`, not 1024 (`41_tqu.md` R130). -/
def Obligations.ConstantAndDcBlocks : Prop :=
  (∀ a t y : Int, fl32 (8 * dec32 0x3EB504F3#32 * a) (2 ^ 149) = some t →
    fl32 (8 * dec32 0x3EB504F3#32 * t) (2 ^ 149) = some y →
    IsForward (Vector.replicate 64 a) (Vector.ofFn fun e : Fin 64 => if e = 0 then y else 0)) ∧
  (∀ d t x : Int, fl32 (dec32 0x3EB504F3#32 * d) (2 ^ 149) = some t →
    fl32 (dec32 0x3EB504F3#32 * t) (2 ^ 149) = some x →
    IsInverse (Vector.ofFn fun e : Fin 64 => if e = 0 then d else 0) (Vector.replicate 64 x)) ∧
  IsForward (Vector.replicate 64 (dec32 0x43000000#32))
    (Vector.ofFn fun e : Fin 64 => if e = 0 then dec32 0x447FFFFF#32 else 0)

/-- Constant blocks survive the base-layer path when the matrix's DC entry is at least 1/256 and divides `8a`
evenly (`41_tqu.md` R127). -/
def Obligations.ConstantBlocksSurvive : Prop :=
  ∀ (a : Nat) (M : Block) (q : Int), a ≤ 255 → (∀ e : Fin 64, 0 < M[e]) → 2 ^ 149 ≤ 256 * M[0] →
    q * M[0] = 8 * a * 2 ^ 149 →
    ∃ Z, IsBaseBlock M (Vector.replicate 64 ((a : Int) * 2 ^ 149)) Z ∧
      ∀ e : Fin 64, (toU8 Z[e]).toNat = a

/-- The transforms do not overflow on magnitudes up to 2^120 (`41_tqu.md` R117, X3). -/
def Obligations.NoSpuriousOverflow : Prop :=
  ∀ X : Block, (∀ e : Fin 64, X[e].natAbs ≤ 2 ^ 269) → (∃ Y, IsForward X Y) ∧ ∃ Y, IsInverse X Y

/-- The accuracy contract: with `A` a bound of the operand's magnitudes, each result of the forward transform
is within `A * 2^-19 + 2^-140` of the orthonormal DCT-II over the reals, and each result of the inverse of
its inverse (`41_tqu.md` R117 X2, R113). -/
def Obligations.TransformAccuracy : Prop :=
  ∀ (K : Fin 8 → Fin 8 → ℝ),
    (∀ k n : Fin 8, K k n = (if k = 0 then 1 / (2 * Real.sqrt 2) else 1 / 2) *
      Real.cos ((2 * (n.val : ℝ) + 1) * k.val * Real.pi / 16)) →
    ∀ (X Y : Block) (A : Int), (∀ e : Fin 64, |X[e]| ≤ A) →
      (IsForward X Y → ∀ u v : Fin 8,
        |(at8 Y u v : ℝ) - ∑ r : Fin 8, ∑ c : Fin 8, K u r * K v c * (at8 X r c : ℝ)| ≤
          (A : ℝ) / 2 ^ 19 + 2 ^ 9) ∧
      (IsInverse X Y → ∀ r c : Fin 8,
        |(at8 Y r c : ℝ) - ∑ u : Fin 8, ∑ v : Fin 8, K u r * K v c * (at8 X u v : ℝ)| ≤
          (A : ℝ) / 2 ^ 19 + 2 ^ 9)

/-- Transform alone is lossless on samples: the inverse of the forward transform of 64 bytes stores the same
64 bytes (`41_tqu.md` R126). -/
def Obligations.TransformAloneKeepsSamples : Prop :=
  ∀ n : Vector Byte 64, ∃ Y Z,
    IsForward (Vector.ofFn fun e : Fin 64 => (n[e].toNat : Int) * 2 ^ 149) Y ∧ IsInverse Y Z ∧
      ∀ e : Fin 64, toU8 Z[e] = n[e]

/-! ### The host's side -/

/-- A host write to `CMD`: SRESET resets in every state; otherwise it is ignored with `HZD` while busy,
discarded without trace in the fault state unless it is CLRERR, and accepted otherwise (`10_state.md` R41,
R37; `60_exceptions.md` R216). -/
def Obligations.CmdWriteProtocol : Prop :=
  ∀ (s : State) (w : Word),
    (w = 0x02000000#32 → s.hrsWrite .word 0x004 w = .next s.resetOperation) ∧
    (w ≠ 0x02000000#32 → s.status.busy = true →
      s.hrsWrite .word 0x004 w = .next { s with status := { s.status with hzd := true } }) ∧
    (w ≠ 0x02000000#32 → s.status.busy = false → s.status.err = true → w ≠ 0x01000000#32 →
      s.hrsWrite .word 0x004 w = .next s) ∧
    (w ≠ 0x02000000#32 → s.status.busy = false → (s.status.err = false ∨ w = 0x01000000#32) →
      s.hrsWrite .word 0x004 w =
        .next { s with pend := some w, status := { s.status with busy := true } })

/-- While `BUSY = 1` every host write but SRESET's is ignored and sets `HZD`, and reads of block, matrix,
`BDEPTH` and FMEM data are draws (`10_state.md` R42). The fields that hold a read's answer and count the
draws are the model's own (notes/assumptions/5, notes/assumptions/3). -/
def Obligations.BusyAccesses : Prop :=
  ∀ s : State, s.status.busy = true →
    (∀ off w, off % 4 = 0 → off < 4096 → ¬ (off = 0x004 ∧ w = 0x02000000#32) →
      s.hrsWrite .word off w = .next { s with status := { s.status with hzd := true } }) ∧
    (∀ a v, a < s.fmemSize →
      s.fmemWrite .byte a v = .next { s with status := { s.status with hzd := true } }) ∧
    (∀ off, off % 4 = 0 →
      off = 0x018 ∨ (0x400 ≤ off ∧ off < 0x600) ∨ (0x800 ≤ off ∧ off < 0xC00) →
      s.hrsRead .word off =
        .next { s with rdata := Config.hostWordDraw s.draws, draws := s.draws + 1 }) ∧
    (∀ a, a < s.fmemSize → s.fmemRead .byte a =
      .next { s with rdata := (Config.hostByteDraw s.draws).zeroExtend 32, draws := s.draws + 1 })

/-- What the host reads: the map of HRS, and a byte of FMEM while `BUSY = 0`, with no side effect on the unit
(`10_state.md` R30, R43, R54; `20_memory.md` R64, R65). The fields that hold a read's answer and count the draws are the model's own
(notes/assumptions/5, notes/assumptions/3). -/
def Obligations.HostReadMap : Prop :=
  ∀ s : State,
    s.hrsRead .word 0x000 = .next { s with rdata := 0x42545510#32 } ∧
    s.hrsRead .word 0x004 = .next { s with rdata := 0 } ∧
    s.hrsRead .word 0x008 = .next { s with rdata := s.status.word } ∧
    s.hrsRead .word 0x00C = .next { s with rdata := s.errinfo } ∧
    s.hrsRead .word 0x010 = .next { s with rdata := s.dim } ∧
    s.hrsRead .word 0x014 = .next { s with rdata := s.cur } ∧
    (s.status.busy = false → s.hrsRead .word 0x018 = .next { s with rdata := s.bdepth }) ∧
    (∀ k : Fin 4, s.hrsRead .word (0x020 + 4 * k) = .next { s with rdata := s.fb[k] }) ∧
    s.hrsRead .word 0x040 = .next { s with rdata := s.lstat.word } ∧
    s.hrsRead .word 0x044 = .next { s with rdata := s.lcount } ∧
    s.hrsRead .word 0x048 = .next { s with rdata := s.inaDim } ∧
    s.hrsRead .word 0x04C = .next { s with rdata := s.inaFps } ∧
    s.hrsRead .word 0x050 = .next { s with rdata := s.inbDim } ∧
    s.hrsRead .word 0x054 = .next { s with rdata := s.inbFps } ∧
    (∀ (k : Fin 2) (e : Fin 64), s.status.busy = false →
      s.hrsRead .word (0x400 + 0x100 * k + 4 * e) = .next { s with rdata := s.qm[k][e] }) ∧
    (∀ (k : Fin 4) (e : Fin 64), s.status.busy = false → s.brv[k][e] = true →
      s.hrsRead .word (0x800 + 0x100 * k + 4 * e) = .next { s with rdata := s.br[k][e] }) ∧
    (∀ (k : Fin 4) (e : Fin 64), s.brv[k][e] = false →
      s.hrsRead .word (0x800 + 0x100 * k + 4 * e) =
        .next { s with rdata := Config.hostWordDraw s.draws, draws := s.draws + 1 }) ∧
    (∀ off, off % 4 = 0 → off = 0x01C ∨ (0x030 ≤ off ∧ off < 0x040) ∨ (0x058 ≤ off ∧ off < 0x400) ∨
      (0x600 ≤ off ∧ off < 0x800) ∨ (0xC00 ≤ off ∧ off < 0x1000) →
      s.hrsRead .word off = .next { s with rdata := 0 }) ∧
    (∀ a, s.status.busy = false → a < s.fmemSize →
      s.fmemRead .byte a = .next { s with rdata := (Memory.read s.fmem a).zeroExtend 32 })

/-- What a host write does while `BUSY = 0`, in the fault state too (`10_state.md` R30 to R33, R54;
`20_memory.md` R64, R65). -/
def Obligations.HostWriteEffects : Prop :=
  ∀ (s : State) (w : Word), s.status.busy = false →
    s.hrsWrite .word 0x010 w = .next { s with dim := w } ∧
    s.hrsWrite .word 0x014 w = .next { s with cur := w &&& 0xDFFF1FFF#32 } ∧
    (∀ k : Fin 4, s.hrsWrite .word (0x020 + 4 * k) w = .next { s with fb := s.fb.set k w }) ∧
    (∀ (k : Fin 2) (e : Fin 64), s.hrsWrite .word (0x400 + 0x100 * k + 4 * e) w =
      .next { s with qm := s.qm.set k (s.qm[k].set e w) }) ∧
    (∀ (k : Fin 4) (e : Fin 64), s.hrsWrite .word (0x800 + 0x100 * k + 4 * e) w =
      .next { s with br := s.br.set k (s.br[k].set e w), brv := s.brv.set k (s.brv[k].set e true) }) ∧
    (∀ off, off % 4 = 0 → off = 0x000 ∨ off = 0x008 ∨ off = 0x00C ∨ off = 0x018 ∨ off = 0x01C ∨
      (0x030 ≤ off ∧ off < 0x400) ∨ (0x600 ≤ off ∧ off < 0x800) ∨ (0xC00 ≤ off ∧ off < 0x1000) →
      s.hrsWrite .word off w = .next s) ∧
    (∀ (a : Nat) (v : Byte), a < s.fmemSize → Memory.wf s.fmem = true →
      ∃ m, s.fmemWrite .byte a v = .next { s with fmem := m } ∧ Memory.wf m = true ∧
        ∀ b, Memory.read m b = if b = a then v else Memory.read s.fmem b)

/-- Any other host access has no meaning and is refused by name (`20_memory.md` R63, R65;
`70_reset_and_hazards.md` R254). -/
def Obligations.MeaninglessAccessesRefused : Prop :=
  ∀ (s : State) (width : AccessWidth) (n : Nat) (w : Word) (v : Byte),
    ((width ≠ .word ∨ n % 4 ≠ 0 ∨ 4096 ≤ n) →
      s.hrsRead width n = .refused .hrsAccess ∧ s.hrsWrite width n w = .refused .hrsAccess) ∧
    ((width ≠ .byte ∨ s.fmemSize ≤ n) →
      s.fmemRead width n = .refused .fmemAccess ∧ s.fmemWrite width n v = .refused .fmemAccess)

/-- The steps of the agents other than the unit: a host access; a producer sets `ready`; fresh port records
are attached only in `Idle` or `Closed` with nothing pending, and refused otherwise (`00_scope.md` R7,
`10_state.md` R50 to R52). The agenda is the model's own (notes/assumptions/4), and so is the refusal's form
(notes/assumptions/8). -/
def Obligations.OtherAgentsSteps : Prop :=
  ∀ (s : State) (rest : List Event),
    (∀ width off w, s.agenda = .hrsWrite width off w :: rest →
      step s = State.hrsWrite { s with agenda := rest } width off w) ∧
    (∀ width off, s.agenda = .hrsRead width off :: rest →
      step s = State.hrsRead { s with agenda := rest } width off) ∧
    (∀ width a v, s.agenda = .fmemWrite width a v :: rest →
      step s = State.fmemWrite { s with agenda := rest } width a v) ∧
    (∀ width a, s.agenda = .fmemRead width a :: rest →
      step s = State.fmemRead { s with agenda := rest } width a) ∧
    (s.agenda = .producerReady .a :: rest →
      step s = .next { s with agenda := rest, ina := { s.ina with ready := true } }) ∧
    (s.agenda = .producerReady .b :: rest →
      step s = .next { s with agenda := rest, inb := { s.inb with ready := true } }) ∧
    (∀ a b l h f, s.agenda = .attach a b l h f :: rest →
      ((s.lstat.state = .idle ∨ s.lstat.state = .closed) → s.status.busy = false →
        step s = .next { s with
          agenda := rest
          ina := { a with pos := 0 }, inb := { b with pos := 0 }
          outl := { l with opened := false, frames := [] }
          outh := { h with opened := false, frames := [] }
          outf := { f with opened := false, frames := [] } }) ∧
      (¬ ((s.lstat.state = .idle ∨ s.lstat.state = .closed) ∧ s.status.busy = false) →
        step s = .refused .portsReplaced))

/-- `STATUS` and `LSTAT` as the host reads them, bit by bit (`10_state.md` R35, R45). -/
def Obligations.StatusWordLayout : Prop :=
  (∀ f : Status, f.word.getLsbD 0 = f.busy ∧ f.word.getLsbD 1 = f.err ∧ f.word.getLsbD 2 = f.edge ∧
    f.word.getLsbD 3 = f.hzd ∧ f.word.extractLsb' 4 4 = 0 ∧ f.word.extractLsb' 8 8 = f.errcode ∧
    f.word.extractLsb' 16 16 = 0) ∧
  (∀ f : Lstat, (f.state = .idle → f.word.extractLsb' 0 3 = 0#3) ∧
    (f.state = .opening → f.word.extractLsb' 0 3 = 1#3) ∧
    (f.state = .streaming → f.word.extractLsb' 0 3 = 2#3) ∧
    (f.state = .finalizing → f.word.extractLsb' 0 3 = 3#3) ∧
    (f.state = .closed → f.word.extractLsb' 0 3 = 4#3) ∧ f.word.getLsbD 3 = false ∧
    f.word.getLsbD 4 = f.openerr ∧ f.word.getLsbD 5 = f.eosa ∧ f.word.getLsbD 6 = f.eosb ∧
    f.word.getLsbD 7 = false ∧ f.word.getLsbD 8 = f.faila ∧ f.word.getLsbD 9 = f.failb ∧
    f.word.extractLsb' 10 22 = 0)

/-! ### Invariants and whole-machine rules -/

/-- The invariant holds after reset. -/
def Obligations.ResetMeetsInvariant : Prop := Inv State.reset

/-- Every step of every agent keeps the invariant: `BUSY` exactly when a command is pending (R36), the fault
record (R37, R40, R211), the fault lock (R218), the LSC's states and flags (R45, R181, R182), the zero bits of
`CUR` (R32), and FMEM in its canonical form below `FMEM_SIZE` (R53). -/
def Obligations.StepKeepsInvariant : Prop :=
  ∀ s t : State, Inv s → step s = .next t → Inv t

/-- Every step keeps `BDEPTH` between -148 and 128 (`10_state.md` R34). -/
def Obligations.StepKeepsDepthInRange : Prop :=
  ∀ s t : State, DepthInRange s → step s = .next t → DepthInRange t

/-- The platform's `FMEM_SIZE` is between 1 and 2^32, and no step changes it (`00_scope.md` R6; that State
holds it is the model's form, notes/assumptions/2). -/
def Obligations.StepKeepsPlatform : Prop :=
  ∀ s : State, 1 ≤ s.fmemSize ∧ s.fmemSize ≤ 2 ^ 32 ∧
    ∀ t, step s = .next t → t.fmemSize = s.fmemSize

/-- The fault lock: a step keeps the first fault's record, or it is CLRERR run by the unit or a reset and
clears the record (`60_exceptions.md` R216, R217, R218; `10_state.md` R35). -/
def Obligations.FaultRecordIsLocked : Prop :=
  ∀ s t : State, Inv s → s.status.err = true → step s = .next t →
    (t.status.err = true ∧ t.status.errcode = s.status.errcode ∧ t.errinfo = s.errinfo) ∨
    ((clearsNext s ∨ resetsNext s = true) ∧ t.status.err = false ∧ t.status.errcode = 0 ∧ t.errinfo = 0)

/-- Nothing but reset clears a valid bit (`10_state.md` R22). -/
def Obligations.OnlyResetClearsValidBits : Prop :=
  ∀ (s t : State) (k : Fin 4) (e : Fin 64), step s = .next t → s.brv[k][e] = true →
    t.brv[k][e] = true ∨ resetsNext s = true

/-- No command but QMFILL and SRESET writes a matrix register, and QMFILL writes only the one it names
(`10_state.md` R25, R27). -/
def Obligations.CommandsLeaveMatrices : Prop :=
  ∀ (i : Instr) (s t : State), exec i s = .next t → i ≠ .sreset →
    ((∀ qk n, i ≠ .qmfill qk n) → t.qm = s.qm) ∧
    (∀ (k q : Fin 2) n, i = .qmfill (sel q) n → k ≠ q → t.qm[k] = s.qm[k])

/-- A command that changes a block register element leaves a finite word there, never `0x80000000`, and the
element valid (`41_tqu.md` R111). SRESET, which gives the elements no value (`10_state.md` R55), is apart. -/
def Obligations.CommandsStoreFiniteWords : Prop :=
  ∀ (i : Instr) (s t : State) (k : Fin 4) (e : Fin 64), exec i s = .next t → i ≠ .sreset →
    t.br[k][e] ≠ s.br[k][e] →
      finite32 t.br[k][e] = true ∧ t.br[k][e] ≠ 0x80000000#32 ∧ t.brv[k][e] = true

/-- The LSC's state and the TQU's, RSU's and FSQ's are disjoint: LSC commands leave the latter, and every other
command but SRESET leaves the LSC and the ports (`10_state.md` R48, R49). -/
def Obligations.CombinerIsDisjoint : Prop :=
  ∀ (i : Instr) (s t : State), exec i s = .next t → i ≠ .sreset →
    (isCombinerCommand i = true → SameDatapath s t) ∧
    (isCombinerCommand i = false → SameCombiner s t)

/-- The bit-depth estimate gates nothing: changing `BDEPTH` before a command changes nothing after it but
`BDEPTH` (`44_residual_enh.md` R163). -/
def Obligations.DepthGatesNothing : Prop :=
  ∀ (i : Instr) (s : State) (b : Word), ∃ t b', exec i s = .next t ∧
    exec i { s with bdepth := b } = .next { t with bdepth := b' }
end

