-- ==== Sys2Proof/Laws/Memory.lean ====
section
/-!
SUPPORT. The laws of FMEM: a read after a write, the canonical form and the address bound, kept by every
operation.
-/

namespace Sys2Proof.Machine

@[simp] theorem Memory.read_nil (a : Nat) : Memory.read [] a = Config.fmemUnwritten := rfl

theorem Memory.read_cons (b : Nat) (v : Byte) (m : Memory) (a : Nat) :
    Memory.read ((b, v) :: m) a = if a = b then v else Memory.read m a := rfl

/-- The canonical form, with the lower bound of its addresses: what the proofs recurse on. -/
def Memory.wfFrom (lo : Nat) : Memory → Prop
  | [] => True
  | (a, v) :: m => lo ≤ a ∧ v ≠ Config.fmemUnwritten ∧ Memory.wfFrom (a + 1) m

theorem Memory.wfFrom_mono {m : Memory} {lo lo' : Nat} (h : Memory.wfFrom lo m) (hl : lo' ≤ lo) :
    Memory.wfFrom lo' m := by
  cases m with
  | nil => trivial
  | cons c m => exact ⟨le_trans hl h.1, h.2⟩

theorem Memory.wf_iff_wfFrom (m : Memory) : Memory.wf m = true ↔ Memory.wfFrom 0 m := by
  suffices H : ∀ lo, (Memory.wf m = true ∧ ∀ c ∈ m.head?, lo ≤ c.1) ↔ Memory.wfFrom lo m by
    rw [← H 0]; simp
  induction m with
  | nil => simp [Memory.wf, Memory.wfFrom]
  | cons c m ih =>
    obtain ⟨a, v⟩ := c
    intro lo
    cases m with
    | nil => simp [Memory.wf, Memory.wfFrom, and_comm]
    | cons d m =>
      obtain ⟨b, u⟩ := d
      have := ih (a + 1)
      simp only [Memory.wf, Bool.and_eq_true, bne_iff_ne, ne_eq, decide_eq_true_eq, List.head?_cons,
        Option.mem_def, Option.some.injEq, forall_eq', Memory.wfFrom] at this ⊢
      rw [← this]
      constructor
      · rintro ⟨⟨⟨h1, h2⟩, h3⟩, h4⟩
        exact ⟨h4, h1, h3, h2⟩
      · rintro ⟨h4, h1, h3, h2⟩
        exact ⟨⟨⟨h1, h2⟩, h3⟩, h4⟩

/-- An address below every listed one reads as unwritten. -/
theorem Memory.read_below {m : Memory} {lo a : Nat} (h : Memory.wfFrom lo m) (ha : a < lo) :
    Memory.read m a = Config.fmemUnwritten := by
  induction m generalizing lo with
  | nil => rfl
  | cons c m ih =>
    obtain ⟨b, v⟩ := c
    have hb : a ≠ b := by have := h.1; omega
    rw [Memory.read_cons, if_neg hb]
    exact ih h.2.2 (by have := h.1; omega)

theorem Memory.wfFrom_putCell {m : Memory} {lo a : Nat} {v : Byte} (hm : Memory.wfFrom (a + 1) m)
    (ha : lo ≤ a) : Memory.wfFrom lo (Memory.putCell a v m) := by
  unfold Memory.putCell
  split
  · exact Memory.wfFrom_mono hm (by omega)
  · exact ⟨ha, by assumption, hm⟩

theorem Memory.wfFrom_write {m : Memory} {lo a : Nat} (v : Byte) (hm : Memory.wfFrom lo m) (ha : lo ≤ a) :
    Memory.wfFrom lo (Memory.write m a v) := by
  induction m generalizing lo with
  | nil => exact Memory.wfFrom_putCell (m := []) trivial ha
  | cons c m ih =>
    obtain ⟨b, u⟩ := c
    obtain ⟨h1, h2, h3⟩ := hm
    simp only [Memory.write]
    split
    · exact Memory.wfFrom_putCell ⟨by omega, h2, h3⟩ ha
    · split
      · exact Memory.wfFrom_putCell (by subst a; exact h3) ha
      · exact ⟨h1, h2, ih h3 (by omega)⟩

/-- A write keeps the canonical form. -/
theorem Memory.wf_write {m : Memory} (a : Nat) (v : Byte) (hm : Memory.wf m = true) :
    Memory.wf (Memory.write m a v) = true := by
  rw [Memory.wf_iff_wfFrom] at hm ⊢
  exact Memory.wfFrom_write v hm (Nat.zero_le a)

/-- A list of writes keeps the canonical form. -/
theorem Memory.wf_writeAll {m : Memory} (cells : List Host.Cell) (hm : Memory.wf m = true) :
    Memory.wf (Memory.writeAll m cells) = true := by
  induction cells generalizing m with
  | nil => exact hm
  | cons c cells ih => exact ih (Memory.wf_write c.1 c.2 hm)

theorem Memory.read_putCell {m : Memory} {a : Nat} (v : Byte) (hm : Memory.wfFrom (a + 1) m) (b : Nat) :
    Memory.read (Memory.putCell a v m) b = if b = a then v else Memory.read m b := by
  unfold Memory.putCell
  split
  · next h =>
    split
    · next hb => subst hb; rw [h]; exact Memory.read_below hm (by omega)
    · rfl
  · exact Memory.read_cons a v m b

theorem Memory.read_write_from {m : Memory} {lo : Nat} (hm : Memory.wfFrom lo m) (a : Nat) (v : Byte) (b : Nat) :
    Memory.read (Memory.write m a v) b = if b = a then v else Memory.read m b := by
  induction m generalizing lo with
  | nil => exact Memory.read_putCell (m := []) v trivial b
  | cons c m ih =>
    obtain ⟨k, u⟩ := c
    obtain ⟨h1, h2, h3⟩ := hm
    simp only [Memory.write]
    split
    · exact Memory.read_putCell (m := (k, u) :: m) v ⟨by omega, h2, h3⟩ b
    · split
      · next hk =>
        subst hk
        rw [Memory.read_putCell v h3, Memory.read_cons]
        split <;> rfl
      · next hlt hne =>
        rw [Memory.read_cons, Memory.read_cons, ih h3]
        split
        · next hb => rw [if_neg (by omega)]
        · rfl

/-- What a byte reads after a write: the value written at its address, its old value elsewhere. -/
theorem Memory.read_write {m : Memory} (hm : Memory.wf m = true) (a : Nat) (v : Byte) (b : Nat) :
    Memory.read (Memory.write m a v) b = if b = a then v else Memory.read m b :=
  Memory.read_write_from ((Memory.wf_iff_wfFrom m).1 hm) a v b

@[simp] theorem Memory.writeAll_nil (m : Memory) : Memory.writeAll m [] = m := rfl

theorem Memory.writeAll_cons (m : Memory) (c : Host.Cell) (cells : List Host.Cell) :
    Memory.writeAll m (c :: cells) = Memory.writeAll (Memory.write m c.1 c.2) cells := rfl

theorem Memory.writeAll_append (m : Memory) (xs ys : List Host.Cell) :
    Memory.writeAll m (xs ++ ys) = Memory.writeAll (Memory.writeAll m xs) ys := by
  simp [Memory.writeAll, List.foldl_append]

/-- A list of writes leaves every address it does not name. -/
theorem Memory.read_writeAll_other {m : Memory} (hm : Memory.wf m = true) (cells : List Host.Cell) (b : Nat)
    (hb : ∀ c ∈ cells, c.1 ≠ b) : Memory.read (Memory.writeAll m cells) b = Memory.read m b := by
  induction cells generalizing m with
  | nil => rfl
  | cons c cells ih =>
    rw [Memory.writeAll_cons, ih (Memory.wf_write c.1 c.2 hm) fun d hd => hb d (List.mem_cons_of_mem _ hd),
      Memory.read_write hm, if_neg (Ne.symm (hb c List.mem_cons_self))]

/-- An address that every write to it gives the same value reads that value after a list of writes. -/
theorem Memory.read_writeAll_mem {m : Memory} (hm : Memory.wf m = true) (cells : List Host.Cell) (b : Nat)
    (v : Byte) (hmem : (b, v) ∈ cells) (huniq : ∀ c ∈ cells, c.1 = b → c.2 = v) :
    Memory.read (Memory.writeAll m cells) b = v := by
  induction cells generalizing m with
  | nil => cases hmem
  | cons c cells ih =>
    rw [Memory.writeAll_cons]
    have hm' := Memory.wf_write c.1 c.2 hm
    have huniq' : ∀ d ∈ cells, d.1 = b → d.2 = v := fun d hd => huniq d (List.mem_cons_of_mem _ hd)
    by_cases h : (b, v) ∈ cells
    · exact ih hm' h huniq'
    · have hnone : ∀ d ∈ cells, d.1 ≠ b := fun d hd he =>
        h (by have := huniq' d hd he; rw [← he, ← this]; exact hd)
      rw [Memory.read_writeAll_other hm' cells b hnone, Memory.read_write hm]
      rcases List.mem_cons.1 hmem with he | he
      · rw [← he]; simp
      · exact absurd he h

/-- A write of an address below a bound keeps every listed address below it. -/
theorem Memory.bound_write {m : Memory} {n a : Nat} (v : Byte) (hm : ∀ c ∈ m, c.1 < n) (ha : a < n) :
    ∀ c ∈ Memory.write m a v, c.1 < n := by
  have hput : ∀ rest : Memory, (∀ c ∈ rest, c.1 < n) → ∀ c ∈ Memory.putCell a v rest, c.1 < n := by
    intro rest hr c hc
    unfold Memory.putCell at hc
    split at hc
    · exact hr c hc
    · rcases List.mem_cons.1 hc with rfl | h
      · exact ha
      · exact hr c h
  induction m with
  | nil => exact hput [] (by simp)
  | cons d m ih =>
    obtain ⟨b, u⟩ := d
    simp only [Memory.write]
    split
    · exact hput _ hm
    · split
      · exact hput _ fun c hc => hm c (List.mem_cons_of_mem _ hc)
      · intro c hc
        rcases List.mem_cons.1 hc with rfl | h
        · exact hm _ List.mem_cons_self
        · exact ih (fun c hc => hm c (List.mem_cons_of_mem _ hc)) c h

/-- A list of writes below a bound keeps every listed address below it. -/
theorem Memory.bound_writeAll {m : Memory} {n : Nat} (cells : List Host.Cell) (hm : ∀ c ∈ m, c.1 < n)
    (hc : ∀ c ∈ cells, c.1 < n) : ∀ c ∈ Memory.writeAll m cells, c.1 < n := by
  induction cells generalizing m with
  | nil => exact hm
  | cons d cells ih =>
    exact ih (Memory.bound_write d.2 hm (hc d List.mem_cons_self)) fun c h => hc c (List.mem_cons_of_mem _ h)

/-- Equal contents are equal data: two canonical memories that read the same everywhere are the same list. -/
theorem Memory.ext_of_read {m n : Memory} {lo : Nat} (hm : Memory.wfFrom lo m) (hn : Memory.wfFrom lo n)
    (h : ∀ a, Memory.read m a = Memory.read n a) : m = n := by
  induction m generalizing lo n with
  | nil =>
    cases n with
    | nil => rfl
    | cons d n =>
      have := h d.1
      rw [Memory.read_nil, Memory.read_cons, if_pos rfl] at this
      exact absurd this.symm hn.2.1
  | cons c m ih =>
    obtain ⟨a, v⟩ := c
    cases n with
    | nil =>
      have := h a
      rw [Memory.read_nil, Memory.read_cons, if_pos rfl] at this
      exact absurd this hm.2.1
    | cons d n =>
      obtain ⟨b, u⟩ := d
      obtain ⟨h1, h2, h3⟩ := hm
      obtain ⟨k1, k2, k3⟩ := hn
      have hab : a = b := by
        rcases Nat.lt_trichotomy a b with hlt | he | hgt
        · have := h a
          rw [Memory.read_cons, if_pos rfl, Memory.read_cons, if_neg (by omega),
            Memory.read_below k3 (by omega)] at this
          exact absurd this h2
        · exact he
        · have := h b
          rw [Memory.read_cons, if_neg (by omega), Memory.read_below h3 (by omega), Memory.read_cons,
            if_pos rfl] at this
          exact absurd this.symm k2
      subst hab
      have hvu : v = u := by simpa [Memory.read_cons] using h a
      subst hvu
      rw [ih h3 k3]
      intro x
      by_cases hx : x = a
      · subst hx
        rw [Memory.read_below h3 (by omega), Memory.read_below k3 (by omega)]
      · simpa [Memory.read_cons, hx] using h x

end Sys2Proof.Machine
end

