-- ==== Sys2Proof/Laws/Numbers.lean ====
section
/-!
SUPPORT. What rounding, settling and the lane operations can answer: one lemma for each, cited instead of
unfolding them.
-/

namespace Sys2Proof.Machine

theorem one32_pos : 0 < one32 := by decide

/-- `rneDiv` answers an integer nearest to the fraction. -/
theorem rneDiv_near (num : Int) {den : Nat} (hd : 0 < den) :
    2 * (rneDiv num den * den - num) ≤ den ∧ -(den : Int) ≤ 2 * (rneDiv num den * den - num) := by
  have hpos : (0 : Int) < den := by exact_mod_cast hd
  have hdiv := Int.mul_ediv_add_emod num den
  have h0 := Int.emod_nonneg num (ne_of_gt hpos)
  have h1 := Int.emod_lt_of_pos num hpos
  have hk : (num / (den : Int)) * den = (den : Int) * (num / den) := mul_comm _ _
  unfold rneDiv
  dsimp only
  split
  · next h =>
    rw [add_mul, one_mul, hk]
    rcases h with h | h <;> constructor <;> omega
  · next h =>
    rw [hk]
    push Not at h
    have := h.1
    constructor <;> omega

/-- A fraction that is an integer rounds to it. -/
theorem rneDiv_exact (n : Int) {den : Nat} (hd : 0 < den) : rneDiv (n * den) den = n := by
  have hpos : (den : Int) ≠ 0 := by exact_mod_cast hd.ne'
  unfold rneDiv
  simp only [Int.mul_ediv_cancel _ hpos, Int.mul_emod_left]
  rw [if_neg]
  rintro (h | h) <;> omega

/-- The rounding of a non-negative fraction is non-negative. -/
theorem rneDiv_nonneg {num : Int} (hn : 0 ≤ num) (den : Nat) : 0 ≤ rneDiv num den := by
  have := Int.ediv_nonneg hn (Int.natCast_nonneg den)
  unfold rneDiv
  dsimp only
  split <;> omega

/-- What `fl32` answers: below `OVERFLOW`, the rounding at the spacing of the fraction's magnitude. -/
theorem fl32_eq_some {num : Int} {den : Nat} {v : Int} (h : fl32 num den = some v) :
    ∃ r : Int, r = rneDiv num.natAbs (den * 2 ^ scale32 (num.natAbs / den)) *
        2 ^ scale32 (num.natAbs / den) ∧
      r < limit32 ∧ v = if num < 0 then -r else r := by
  unfold fl32 at h
  dsimp only at h
  split at h
  · cases h
  · next hr => exact ⟨_, rfl, by push Not at hr; exact hr, by injection h with h; exact h.symm⟩

/-- `fl32` answers `OVERFLOW` exactly when the rounded magnitude reaches 2^128. -/
theorem fl32_eq_none {num : Int} {den : Nat} :
    fl32 num den = none ↔ (limit32 : Int) ≤ rneDiv num.natAbs (den * 2 ^ scale32 (num.natAbs / den)) *
      2 ^ scale32 (num.natAbs / den) := by
  unfold fl32
  dsimp only
  split <;> simp_all

@[simp] theorem fl32_zero (den : Nat) : fl32 0 den = some 0 := by
  have h : rneDiv ((0 : Int).natAbs : Int) (den * 2 ^ scale32 ((0 : Int).natAbs / den)) = 0 := by
    simp only [rneDiv, Int.natAbs_zero, Nat.cast_zero, Int.zero_ediv, Int.zero_emod]
    rw [if_neg]
    rintro (h | h)
    · have := Int.natCast_nonneg (den * 2 ^ scale32 (0 / den)); omega
    · exact absurd h.2 (by decide)
  have hl : ¬ (0 : Int) ≥ limit32 := not_le.2 (by unfold limit32; positivity)
  unfold fl32
  dsimp only
  rw [h, zero_mul, if_neg hl]
  rfl

/-- A result of `fl32` is below 2^128 in magnitude. -/
theorem fl32_lt_limit {num : Int} {den : Nat} {v : Int} (h : fl32 num den = some v) :
    v.natAbs < limit32 := by
  obtain ⟨r, hr, hlt, hv⟩ := fl32_eq_some h
  have h0 : 0 ≤ r := by
    rw [hr]
    exact mul_nonneg (rneDiv_nonneg (Int.natCast_nonneg _) _) (by positivity)
  subst hv
  split <;> omega

/-- `settle` answers the 64 results when none is `OVERFLOW`. -/
theorem settle_eq_some {Y : Vector (Option Int) 64} {Z : Block} :
    settle Y = some Z ↔ ∀ e : Fin 64, Y[e] = some Z[e] := by
  unfold settle
  split
  · next h =>
    constructor
    · intro hz e
      injection hz with hz
      obtain ⟨v, hv⟩ := Option.isSome_iff_exists.1 (h e)
      have hv' : Y[e.val] = some v := hv
      subst hz
      simp [hv']
    · intro hz
      refine congrArg some (Vector.ext fun i hi => ?_)
      have := hz ⟨i, hi⟩
      simp_all
  · next h =>
    constructor
    · intro hz; cases hz
    · intro hz
      exact absurd (fun e => by rw [hz e]; rfl) h

/-- A 64-lane operation answers lane by lane. -/
theorem lanes_eq_some {f : Int → Int → Option Int} {X Z Y : Block} :
    lanes f X Z = some Y ↔ ∀ e : Fin 64, f X[e] Z[e] = some Y[e] := by
  unfold lanes
  rw [settle_eq_some]
  simp

/-- The forward transform answers when both its passes do. -/
theorem fdct_eq_some {X Y : Block} : fdct X = some Y ↔ ∃ T, fdctRows X = some T ∧ fdctCols T = some Y :=
  Option.bind_eq_some_iff

/-- The inverse transform answers when both its passes do. -/
theorem idct_eq_some {Y X : Block} : idct Y = some X ↔ ∃ T, idctCols Y = some T ∧ idctRows T = some X :=
  Option.bind_eq_some_iff

/-- The block path of BASEF answers when its four stages do. -/
theorem basePath_eq_some {M X Z : Block} :
    basePath M X = some Z ↔ ∃ Y, fdct X = some Y ∧ ∃ Q, quantBlock Y M = some Q ∧
      ∃ D, dequantBlock Q M = some D ∧ idct D = some Z := by
  simp only [basePath, Option.bind_eq_bind, Option.bind_eq_some_iff]

/-- The block path of ENHF answers when its six stages do. -/
theorem enhPath_eq_some {M O B Q E : Block} :
    enhPath M O B = some (Q, E) ↔ ∃ R, subBlock O B = some R ∧ ∃ Y, fdct R = some Y ∧
      quantBlock Y M = some Q ∧ ∃ D, dequantBlock Q M = some D ∧ ∃ F, idct D = some F ∧
        addBlock B F = some E := by
  simp only [enhPath, Option.bind_eq_bind, Option.bind_eq_some_iff, Option.some.injEq, Prod.mk.injEq]
  constructor
  · rintro ⟨R, h1, Y, h2, _, h3, D, h4, F, h5, _, h6, rfl, rfl⟩
    exact ⟨R, h1, Y, h2, h3, D, h4, F, h5, h6⟩
  · rintro ⟨R, h1, Y, h2, h3, D, h4, F, h5, h6⟩
    exact ⟨R, h1, Y, h2, Q, h3, D, h4, F, h5, E, h6, rfl, rfl⟩

end Sys2Proof.Machine
end

