-- ==== Sys2Proof/Laws/State.lean ====
section
/-!
SUPPORT. One lemma per field per update of the state, true by `rfl`, so that no proof unfolds a record
update.
-/

namespace Sys2Proof.Machine

@[simp] theorem Status.idle_busy (f : Status) : (f.idle).busy = false := rfl
@[simp] theorem Status.idle_err (f : Status) : (f.idle).err = f.err := rfl
@[simp] theorem Status.idle_edge (f : Status) : (f.idle).edge = f.edge := rfl
@[simp] theorem Status.idle_hzd (f : Status) : (f.idle).hzd = f.hzd := rfl
@[simp] theorem Status.idle_errcode (f : Status) : (f.idle).errcode = f.errcode := rfl

@[simp] theorem Status.accepted_busy (f : Status) : (f.accepted).busy = true := rfl
@[simp] theorem Status.accepted_err (f : Status) : (f.accepted).err = f.err := rfl
@[simp] theorem Status.accepted_edge (f : Status) : (f.accepted).edge = f.edge := rfl
@[simp] theorem Status.accepted_hzd (f : Status) : (f.accepted).hzd = f.hzd := rfl
@[simp] theorem Status.accepted_errcode (f : Status) : (f.accepted).errcode = f.errcode := rfl

@[simp] theorem Status.hazard_busy (f : Status) : (f.hazard).busy = f.busy := rfl
@[simp] theorem Status.hazard_err (f : Status) : (f.hazard).err = f.err := rfl
@[simp] theorem Status.hazard_edge (f : Status) : (f.hazard).edge = f.edge := rfl
@[simp] theorem Status.hazard_hzd (f : Status) : (f.hazard).hzd = true := rfl
@[simp] theorem Status.hazard_errcode (f : Status) : (f.hazard).errcode = f.errcode := rfl

@[simp] theorem Status.faulted_busy (f : Status) (c : FaultCode) : (f.faulted c).busy = false := rfl
@[simp] theorem Status.faulted_err (f : Status) (c : FaultCode) : (f.faulted c).err = true := rfl
@[simp] theorem Status.faulted_edge (f : Status) (c : FaultCode) : (f.faulted c).edge = f.edge := rfl
@[simp] theorem Status.faulted_hzd (f : Status) (c : FaultCode) : (f.faulted c).hzd = f.hzd := rfl
@[simp] theorem Status.faulted_errcode (f : Status) (c : FaultCode) : (f.faulted c).errcode = c.code := rfl

@[simp] theorem Status.cleared_busy (f : Status) : (f.cleared).busy = f.busy := rfl
@[simp] theorem Status.cleared_err (f : Status) : (f.cleared).err = false := rfl
@[simp] theorem Status.cleared_edge (f : Status) : (f.cleared).edge = false := rfl
@[simp] theorem Status.cleared_hzd (f : Status) : (f.cleared).hzd = false := rfl
@[simp] theorem Status.cleared_errcode (f : Status) : (f.cleared).errcode = 0 := rfl

@[simp] theorem Status.edged_busy (f : Status) (w h : Nat) : (f.edged w h).busy = f.busy := rfl
@[simp] theorem Status.edged_err (f : Status) (w h : Nat) : (f.edged w h).err = f.err := rfl
@[simp] theorem Status.edged_edge (f : Status) (w h : Nat) : (f.edged w h).edge = (f.edge || decide (w % 8 ≠ 0) || decide (h % 8 ≠ 0)) := rfl
@[simp] theorem Status.edged_hzd (f : Status) (w h : Nat) : (f.edged w h).hzd = f.hzd := rfl
@[simp] theorem Status.edged_errcode (f : Status) (w h : Nat) : (f.edged w h).errcode = f.errcode := rfl

@[simp] theorem InPort.consumed_present (f : InPort) : (f.consumed).present = f.present := rfl
@[simp] theorem InPort.consumed_info (f : InPort) : (f.consumed).info = f.info := rfl
@[simp] theorem InPort.consumed_frames (f : InPort) : (f.consumed).frames = f.frames := rfl
@[simp] theorem InPort.consumed_pos (f : InPort) : (f.consumed).pos = f.pos + 1 := rfl
@[simp] theorem InPort.consumed_ready (f : InPort) : (f.consumed).ready = false := rfl

@[simp] theorem InPort.attached_present (f : InPort) : (f.attached).present = f.present := rfl
@[simp] theorem InPort.attached_info (f : InPort) : (f.attached).info = f.info := rfl
@[simp] theorem InPort.attached_frames (f : InPort) : (f.attached).frames = f.frames := rfl
@[simp] theorem InPort.attached_pos (f : InPort) : (f.attached).pos = 0 := rfl
@[simp] theorem InPort.attached_ready (f : InPort) : (f.attached).ready = f.ready := rfl

@[simp] theorem OutPort.openWith_opened (f : OutPort) (i : Meta) : (f.openWith i).opened = true := rfl
@[simp] theorem OutPort.openWith_info (f : OutPort) (i : Meta) : (f.openWith i).info = i := rfl
@[simp] theorem OutPort.openWith_frames (f : OutPort) (i : Meta) : (f.openWith i).frames = f.frames := rfl

@[simp] theorem OutPort.append_opened (f : OutPort) (t : FrameToken) : (f.append t).opened = f.opened := rfl
@[simp] theorem OutPort.append_info (f : OutPort) (t : FrameToken) : (f.append t).info = f.info := rfl
@[simp] theorem OutPort.append_frames (f : OutPort) (t : FrameToken) : (f.append t).frames = f.frames ++ [t] := rfl

@[simp] theorem OutPort.close_opened (f : OutPort) : (f.close).opened = false := rfl
@[simp] theorem OutPort.close_info (f : OutPort) : (f.close).info = f.info := rfl
@[simp] theorem OutPort.close_frames (f : OutPort) : (f.close).frames = f.frames := rfl

@[simp] theorem OutPort.attached_opened (f : OutPort) : (f.attached).opened = false := rfl
@[simp] theorem OutPort.attached_info (f : OutPort) : (f.attached).info = f.info := rfl
@[simp] theorem OutPort.attached_frames (f : OutPort) : (f.attached).frames = [] := rfl

/-! ### `State.complete`: the end of a command -/

@[simp] theorem State.complete_br (s : State) : (s.complete).br = s.br := rfl
@[simp] theorem State.complete_brv (s : State) : (s.complete).brv = s.brv := rfl
@[simp] theorem State.complete_qm (s : State) : (s.complete).qm = s.qm := rfl
@[simp] theorem State.complete_dim (s : State) : (s.complete).dim = s.dim := rfl
@[simp] theorem State.complete_cur (s : State) : (s.complete).cur = s.cur := rfl
@[simp] theorem State.complete_fb (s : State) : (s.complete).fb = s.fb := rfl
@[simp] theorem State.complete_bdepth (s : State) : (s.complete).bdepth = s.bdepth := rfl
@[simp] theorem State.complete_status (s : State) : (s.complete).status = s.status.idle := rfl
@[simp] theorem State.complete_errinfo (s : State) : (s.complete).errinfo = s.errinfo := rfl
@[simp] theorem State.complete_pend (s : State) : (s.complete).pend = none := rfl
@[simp] theorem State.complete_lstat (s : State) : (s.complete).lstat = s.lstat := rfl
@[simp] theorem State.complete_lcount (s : State) : (s.complete).lcount = s.lcount := rfl
@[simp] theorem State.complete_inaDim (s : State) : (s.complete).inaDim = s.inaDim := rfl
@[simp] theorem State.complete_inaFps (s : State) : (s.complete).inaFps = s.inaFps := rfl
@[simp] theorem State.complete_inbDim (s : State) : (s.complete).inbDim = s.inbDim := rfl
@[simp] theorem State.complete_inbFps (s : State) : (s.complete).inbFps = s.inbFps := rfl
@[simp] theorem State.complete_fmem (s : State) : (s.complete).fmem = s.fmem := rfl
@[simp] theorem State.complete_fmemLast (s : State) : (s.complete).fmemLast = s.fmemLast := rfl
@[simp] theorem State.complete_fmemSize (s : State) : (s.complete).fmemSize = s.fmemSize := rfl
@[simp] theorem State.complete_ina (s : State) : (s.complete).ina = s.ina := rfl
@[simp] theorem State.complete_inb (s : State) : (s.complete).inb = s.inb := rfl
@[simp] theorem State.complete_outl (s : State) : (s.complete).outl = s.outl := rfl
@[simp] theorem State.complete_outh (s : State) : (s.complete).outh = s.outh := rfl
@[simp] theorem State.complete_outf (s : State) : (s.complete).outf = s.outf := rfl
@[simp] theorem State.complete_agenda (s : State) : (s.complete).agenda = s.agenda := rfl
@[simp] theorem State.complete_rdata (s : State) : (s.complete).rdata = s.rdata := rfl
@[simp] theorem State.complete_draws (s : State) : (s.complete).draws = s.draws := rfl

/-! ### `State.takeFault`: fault entry -/

@[simp] theorem State.takeFault_br (s : State) (c : FaultCode) : (s.takeFault c).br = s.br := rfl
@[simp] theorem State.takeFault_brv (s : State) (c : FaultCode) : (s.takeFault c).brv = s.brv := rfl
@[simp] theorem State.takeFault_qm (s : State) (c : FaultCode) : (s.takeFault c).qm = s.qm := rfl
@[simp] theorem State.takeFault_dim (s : State) (c : FaultCode) : (s.takeFault c).dim = s.dim := rfl
@[simp] theorem State.takeFault_cur (s : State) (c : FaultCode) : (s.takeFault c).cur = s.cur := rfl
@[simp] theorem State.takeFault_fb (s : State) (c : FaultCode) : (s.takeFault c).fb = s.fb := rfl
@[simp] theorem State.takeFault_bdepth (s : State) (c : FaultCode) : (s.takeFault c).bdepth = s.bdepth := rfl
@[simp] theorem State.takeFault_status (s : State) (c : FaultCode) : (s.takeFault c).status = s.status.faulted c := rfl
@[simp] theorem State.takeFault_errinfo (s : State) (c : FaultCode) : (s.takeFault c).errinfo = s.pendWord := rfl
@[simp] theorem State.takeFault_pend (s : State) (c : FaultCode) : (s.takeFault c).pend = none := rfl
@[simp] theorem State.takeFault_lstat (s : State) (c : FaultCode) : (s.takeFault c).lstat = s.lstat := rfl
@[simp] theorem State.takeFault_lcount (s : State) (c : FaultCode) : (s.takeFault c).lcount = s.lcount := rfl
@[simp] theorem State.takeFault_inaDim (s : State) (c : FaultCode) : (s.takeFault c).inaDim = s.inaDim := rfl
@[simp] theorem State.takeFault_inaFps (s : State) (c : FaultCode) : (s.takeFault c).inaFps = s.inaFps := rfl
@[simp] theorem State.takeFault_inbDim (s : State) (c : FaultCode) : (s.takeFault c).inbDim = s.inbDim := rfl
@[simp] theorem State.takeFault_inbFps (s : State) (c : FaultCode) : (s.takeFault c).inbFps = s.inbFps := rfl
@[simp] theorem State.takeFault_fmem (s : State) (c : FaultCode) : (s.takeFault c).fmem = s.fmem := rfl
@[simp] theorem State.takeFault_fmemLast (s : State) (c : FaultCode) : (s.takeFault c).fmemLast = s.fmemLast := rfl
@[simp] theorem State.takeFault_fmemSize (s : State) (c : FaultCode) : (s.takeFault c).fmemSize = s.fmemSize := rfl
@[simp] theorem State.takeFault_ina (s : State) (c : FaultCode) : (s.takeFault c).ina = s.ina := rfl
@[simp] theorem State.takeFault_inb (s : State) (c : FaultCode) : (s.takeFault c).inb = s.inb := rfl
@[simp] theorem State.takeFault_outl (s : State) (c : FaultCode) : (s.takeFault c).outl = s.outl := rfl
@[simp] theorem State.takeFault_outh (s : State) (c : FaultCode) : (s.takeFault c).outh = s.outh := rfl
@[simp] theorem State.takeFault_outf (s : State) (c : FaultCode) : (s.takeFault c).outf = s.outf := rfl
@[simp] theorem State.takeFault_agenda (s : State) (c : FaultCode) : (s.takeFault c).agenda = s.agenda := rfl
@[simp] theorem State.takeFault_rdata (s : State) (c : FaultCode) : (s.takeFault c).rdata = s.rdata := rfl
@[simp] theorem State.takeFault_draws (s : State) (c : FaultCode) : (s.takeFault c).draws = s.draws := rfl

/-! ### `State.clearFault`: return from the fault state -/

@[simp] theorem State.clearFault_br (s : State) : (s.clearFault).br = s.br := rfl
@[simp] theorem State.clearFault_brv (s : State) : (s.clearFault).brv = s.brv := rfl
@[simp] theorem State.clearFault_qm (s : State) : (s.clearFault).qm = s.qm := rfl
@[simp] theorem State.clearFault_dim (s : State) : (s.clearFault).dim = s.dim := rfl
@[simp] theorem State.clearFault_cur (s : State) : (s.clearFault).cur = s.cur := rfl
@[simp] theorem State.clearFault_fb (s : State) : (s.clearFault).fb = s.fb := rfl
@[simp] theorem State.clearFault_bdepth (s : State) : (s.clearFault).bdepth = s.bdepth := rfl
@[simp] theorem State.clearFault_status (s : State) : (s.clearFault).status = s.status.cleared := rfl
@[simp] theorem State.clearFault_errinfo (s : State) : (s.clearFault).errinfo = 0 := rfl
@[simp] theorem State.clearFault_pend (s : State) : (s.clearFault).pend = s.pend := rfl
@[simp] theorem State.clearFault_lstat (s : State) : (s.clearFault).lstat = s.lstat := rfl
@[simp] theorem State.clearFault_lcount (s : State) : (s.clearFault).lcount = s.lcount := rfl
@[simp] theorem State.clearFault_inaDim (s : State) : (s.clearFault).inaDim = s.inaDim := rfl
@[simp] theorem State.clearFault_inaFps (s : State) : (s.clearFault).inaFps = s.inaFps := rfl
@[simp] theorem State.clearFault_inbDim (s : State) : (s.clearFault).inbDim = s.inbDim := rfl
@[simp] theorem State.clearFault_inbFps (s : State) : (s.clearFault).inbFps = s.inbFps := rfl
@[simp] theorem State.clearFault_fmem (s : State) : (s.clearFault).fmem = s.fmem := rfl
@[simp] theorem State.clearFault_fmemLast (s : State) : (s.clearFault).fmemLast = s.fmemLast := rfl
@[simp] theorem State.clearFault_fmemSize (s : State) : (s.clearFault).fmemSize = s.fmemSize := rfl
@[simp] theorem State.clearFault_ina (s : State) : (s.clearFault).ina = s.ina := rfl
@[simp] theorem State.clearFault_inb (s : State) : (s.clearFault).inb = s.inb := rfl
@[simp] theorem State.clearFault_outl (s : State) : (s.clearFault).outl = s.outl := rfl
@[simp] theorem State.clearFault_outh (s : State) : (s.clearFault).outh = s.outh := rfl
@[simp] theorem State.clearFault_outf (s : State) : (s.clearFault).outf = s.outf := rfl
@[simp] theorem State.clearFault_agenda (s : State) : (s.clearFault).agenda = s.agenda := rfl
@[simp] theorem State.clearFault_rdata (s : State) : (s.clearFault).rdata = s.rdata := rfl
@[simp] theorem State.clearFault_draws (s : State) : (s.clearFault).draws = s.draws := rfl

/-! ### `State.writeBlock`: a block register written by a command -/

@[simp] theorem State.writeBlock_br (s : State) (k : Fin 4) (Y : Block) :
    (s.writeBlock k Y).br = s.br.set k (Vector.ofFn fun e : Fin 64 => enc32 Y[e]) := rfl
@[simp] theorem State.writeBlock_brv (s : State) (k : Fin 4) (Y : Block) :
    (s.writeBlock k Y).brv = s.brv.set k (Vector.replicate 64 true) := rfl
@[simp] theorem State.writeBlock_qm (s : State) (k : Fin 4) (Y : Block) : (s.writeBlock k Y).qm = s.qm := rfl
@[simp] theorem State.writeBlock_dim (s : State) (k : Fin 4) (Y : Block) : (s.writeBlock k Y).dim = s.dim := rfl
@[simp] theorem State.writeBlock_cur (s : State) (k : Fin 4) (Y : Block) : (s.writeBlock k Y).cur = s.cur := rfl
@[simp] theorem State.writeBlock_fb (s : State) (k : Fin 4) (Y : Block) : (s.writeBlock k Y).fb = s.fb := rfl
@[simp] theorem State.writeBlock_bdepth (s : State) (k : Fin 4) (Y : Block) :
    (s.writeBlock k Y).bdepth = s.bdepth := rfl
@[simp] theorem State.writeBlock_status (s : State) (k : Fin 4) (Y : Block) :
    (s.writeBlock k Y).status = s.status := rfl
@[simp] theorem State.writeBlock_errinfo (s : State) (k : Fin 4) (Y : Block) :
    (s.writeBlock k Y).errinfo = s.errinfo := rfl
@[simp] theorem State.writeBlock_pend (s : State) (k : Fin 4) (Y : Block) : (s.writeBlock k Y).pend = s.pend := rfl
@[simp] theorem State.writeBlock_lstat (s : State) (k : Fin 4) (Y : Block) : (s.writeBlock k Y).lstat = s.lstat := rfl
@[simp] theorem State.writeBlock_lcount (s : State) (k : Fin 4) (Y : Block) :
    (s.writeBlock k Y).lcount = s.lcount := rfl
@[simp] theorem State.writeBlock_inaDim (s : State) (k : Fin 4) (Y : Block) :
    (s.writeBlock k Y).inaDim = s.inaDim := rfl
@[simp] theorem State.writeBlock_inaFps (s : State) (k : Fin 4) (Y : Block) :
    (s.writeBlock k Y).inaFps = s.inaFps := rfl
@[simp] theorem State.writeBlock_inbDim (s : State) (k : Fin 4) (Y : Block) :
    (s.writeBlock k Y).inbDim = s.inbDim := rfl
@[simp] theorem State.writeBlock_inbFps (s : State) (k : Fin 4) (Y : Block) :
    (s.writeBlock k Y).inbFps = s.inbFps := rfl
@[simp] theorem State.writeBlock_fmem (s : State) (k : Fin 4) (Y : Block) : (s.writeBlock k Y).fmem = s.fmem := rfl
@[simp] theorem State.writeBlock_fmemLast (s : State) (k : Fin 4) (Y : Block) :
    (s.writeBlock k Y).fmemLast = s.fmemLast := rfl
@[simp] theorem State.writeBlock_fmemSize (s : State) (k : Fin 4) (Y : Block) :
    (s.writeBlock k Y).fmemSize = s.fmemSize := rfl
@[simp] theorem State.writeBlock_ina (s : State) (k : Fin 4) (Y : Block) : (s.writeBlock k Y).ina = s.ina := rfl
@[simp] theorem State.writeBlock_inb (s : State) (k : Fin 4) (Y : Block) : (s.writeBlock k Y).inb = s.inb := rfl
@[simp] theorem State.writeBlock_outl (s : State) (k : Fin 4) (Y : Block) : (s.writeBlock k Y).outl = s.outl := rfl
@[simp] theorem State.writeBlock_outh (s : State) (k : Fin 4) (Y : Block) : (s.writeBlock k Y).outh = s.outh := rfl
@[simp] theorem State.writeBlock_outf (s : State) (k : Fin 4) (Y : Block) : (s.writeBlock k Y).outf = s.outf := rfl
@[simp] theorem State.writeBlock_agenda (s : State) (k : Fin 4) (Y : Block) :
    (s.writeBlock k Y).agenda = s.agenda := rfl
@[simp] theorem State.writeBlock_rdata (s : State) (k : Fin 4) (Y : Block) : (s.writeBlock k Y).rdata = s.rdata := rfl
@[simp] theorem State.writeBlock_draws (s : State) (k : Fin 4) (Y : Block) : (s.writeBlock k Y).draws = s.draws := rfl

/-! ### `State.writeElement`: a block element written by the host -/

@[simp] theorem State.writeElement_br (s : State) (k : Fin 4) (e : Fin 64) (w : Word) :
    (s.writeElement k e w).br = s.br.set k (s.br[k].set e w) := rfl
@[simp] theorem State.writeElement_brv (s : State) (k : Fin 4) (e : Fin 64) (w : Word) :
    (s.writeElement k e w).brv = s.brv.set k (s.brv[k].set e true) := rfl
@[simp] theorem State.writeElement_qm (s : State) (k : Fin 4) (e : Fin 64) (w : Word) :
    (s.writeElement k e w).qm = s.qm := rfl
@[simp] theorem State.writeElement_dim (s : State) (k : Fin 4) (e : Fin 64) (w : Word) :
    (s.writeElement k e w).dim = s.dim := rfl
@[simp] theorem State.writeElement_cur (s : State) (k : Fin 4) (e : Fin 64) (w : Word) :
    (s.writeElement k e w).cur = s.cur := rfl
@[simp] theorem State.writeElement_fb (s : State) (k : Fin 4) (e : Fin 64) (w : Word) :
    (s.writeElement k e w).fb = s.fb := rfl
@[simp] theorem State.writeElement_bdepth (s : State) (k : Fin 4) (e : Fin 64) (w : Word) :
    (s.writeElement k e w).bdepth = s.bdepth := rfl
@[simp] theorem State.writeElement_status (s : State) (k : Fin 4) (e : Fin 64) (w : Word) :
    (s.writeElement k e w).status = s.status := rfl
@[simp] theorem State.writeElement_errinfo (s : State) (k : Fin 4) (e : Fin 64) (w : Word) :
    (s.writeElement k e w).errinfo = s.errinfo := rfl
@[simp] theorem State.writeElement_pend (s : State) (k : Fin 4) (e : Fin 64) (w : Word) :
    (s.writeElement k e w).pend = s.pend := rfl
@[simp] theorem State.writeElement_lstat (s : State) (k : Fin 4) (e : Fin 64) (w : Word) :
    (s.writeElement k e w).lstat = s.lstat := rfl
@[simp] theorem State.writeElement_lcount (s : State) (k : Fin 4) (e : Fin 64) (w : Word) :
    (s.writeElement k e w).lcount = s.lcount := rfl
@[simp] theorem State.writeElement_inaDim (s : State) (k : Fin 4) (e : Fin 64) (w : Word) :
    (s.writeElement k e w).inaDim = s.inaDim := rfl
@[simp] theorem State.writeElement_inaFps (s : State) (k : Fin 4) (e : Fin 64) (w : Word) :
    (s.writeElement k e w).inaFps = s.inaFps := rfl
@[simp] theorem State.writeElement_inbDim (s : State) (k : Fin 4) (e : Fin 64) (w : Word) :
    (s.writeElement k e w).inbDim = s.inbDim := rfl
@[simp] theorem State.writeElement_inbFps (s : State) (k : Fin 4) (e : Fin 64) (w : Word) :
    (s.writeElement k e w).inbFps = s.inbFps := rfl
@[simp] theorem State.writeElement_fmem (s : State) (k : Fin 4) (e : Fin 64) (w : Word) :
    (s.writeElement k e w).fmem = s.fmem := rfl
@[simp] theorem State.writeElement_fmemLast (s : State) (k : Fin 4) (e : Fin 64) (w : Word) :
    (s.writeElement k e w).fmemLast = s.fmemLast := rfl
@[simp] theorem State.writeElement_fmemSize (s : State) (k : Fin 4) (e : Fin 64) (w : Word) :
    (s.writeElement k e w).fmemSize = s.fmemSize := rfl
@[simp] theorem State.writeElement_ina (s : State) (k : Fin 4) (e : Fin 64) (w : Word) :
    (s.writeElement k e w).ina = s.ina := rfl
@[simp] theorem State.writeElement_inb (s : State) (k : Fin 4) (e : Fin 64) (w : Word) :
    (s.writeElement k e w).inb = s.inb := rfl
@[simp] theorem State.writeElement_outl (s : State) (k : Fin 4) (e : Fin 64) (w : Word) :
    (s.writeElement k e w).outl = s.outl := rfl
@[simp] theorem State.writeElement_outh (s : State) (k : Fin 4) (e : Fin 64) (w : Word) :
    (s.writeElement k e w).outh = s.outh := rfl
@[simp] theorem State.writeElement_outf (s : State) (k : Fin 4) (e : Fin 64) (w : Word) :
    (s.writeElement k e w).outf = s.outf := rfl
@[simp] theorem State.writeElement_agenda (s : State) (k : Fin 4) (e : Fin 64) (w : Word) :
    (s.writeElement k e w).agenda = s.agenda := rfl
@[simp] theorem State.writeElement_rdata (s : State) (k : Fin 4) (e : Fin 64) (w : Word) :
    (s.writeElement k e w).rdata = s.rdata := rfl
@[simp] theorem State.writeElement_draws (s : State) (k : Fin 4) (e : Fin 64) (w : Word) :
    (s.writeElement k e w).draws = s.draws := rfl

/-! ### `State.writeEntry`: a matrix entry written by the host -/

@[simp] theorem State.writeEntry_br (s : State) (k : Fin 2) (e : Fin 64) (w : Word) :
    (s.writeEntry k e w).br = s.br := rfl
@[simp] theorem State.writeEntry_brv (s : State) (k : Fin 2) (e : Fin 64) (w : Word) :
    (s.writeEntry k e w).brv = s.brv := rfl
@[simp] theorem State.writeEntry_qm (s : State) (k : Fin 2) (e : Fin 64) (w : Word) :
    (s.writeEntry k e w).qm = s.qm.set k (s.qm[k].set e w) := rfl
@[simp] theorem State.writeEntry_dim (s : State) (k : Fin 2) (e : Fin 64) (w : Word) :
    (s.writeEntry k e w).dim = s.dim := rfl
@[simp] theorem State.writeEntry_cur (s : State) (k : Fin 2) (e : Fin 64) (w : Word) :
    (s.writeEntry k e w).cur = s.cur := rfl
@[simp] theorem State.writeEntry_fb (s : State) (k : Fin 2) (e : Fin 64) (w : Word) :
    (s.writeEntry k e w).fb = s.fb := rfl
@[simp] theorem State.writeEntry_bdepth (s : State) (k : Fin 2) (e : Fin 64) (w : Word) :
    (s.writeEntry k e w).bdepth = s.bdepth := rfl
@[simp] theorem State.writeEntry_status (s : State) (k : Fin 2) (e : Fin 64) (w : Word) :
    (s.writeEntry k e w).status = s.status := rfl
@[simp] theorem State.writeEntry_errinfo (s : State) (k : Fin 2) (e : Fin 64) (w : Word) :
    (s.writeEntry k e w).errinfo = s.errinfo := rfl
@[simp] theorem State.writeEntry_pend (s : State) (k : Fin 2) (e : Fin 64) (w : Word) :
    (s.writeEntry k e w).pend = s.pend := rfl
@[simp] theorem State.writeEntry_lstat (s : State) (k : Fin 2) (e : Fin 64) (w : Word) :
    (s.writeEntry k e w).lstat = s.lstat := rfl
@[simp] theorem State.writeEntry_lcount (s : State) (k : Fin 2) (e : Fin 64) (w : Word) :
    (s.writeEntry k e w).lcount = s.lcount := rfl
@[simp] theorem State.writeEntry_inaDim (s : State) (k : Fin 2) (e : Fin 64) (w : Word) :
    (s.writeEntry k e w).inaDim = s.inaDim := rfl
@[simp] theorem State.writeEntry_inaFps (s : State) (k : Fin 2) (e : Fin 64) (w : Word) :
    (s.writeEntry k e w).inaFps = s.inaFps := rfl
@[simp] theorem State.writeEntry_inbDim (s : State) (k : Fin 2) (e : Fin 64) (w : Word) :
    (s.writeEntry k e w).inbDim = s.inbDim := rfl
@[simp] theorem State.writeEntry_inbFps (s : State) (k : Fin 2) (e : Fin 64) (w : Word) :
    (s.writeEntry k e w).inbFps = s.inbFps := rfl
@[simp] theorem State.writeEntry_fmem (s : State) (k : Fin 2) (e : Fin 64) (w : Word) :
    (s.writeEntry k e w).fmem = s.fmem := rfl
@[simp] theorem State.writeEntry_fmemLast (s : State) (k : Fin 2) (e : Fin 64) (w : Word) :
    (s.writeEntry k e w).fmemLast = s.fmemLast := rfl
@[simp] theorem State.writeEntry_fmemSize (s : State) (k : Fin 2) (e : Fin 64) (w : Word) :
    (s.writeEntry k e w).fmemSize = s.fmemSize := rfl
@[simp] theorem State.writeEntry_ina (s : State) (k : Fin 2) (e : Fin 64) (w : Word) :
    (s.writeEntry k e w).ina = s.ina := rfl
@[simp] theorem State.writeEntry_inb (s : State) (k : Fin 2) (e : Fin 64) (w : Word) :
    (s.writeEntry k e w).inb = s.inb := rfl
@[simp] theorem State.writeEntry_outl (s : State) (k : Fin 2) (e : Fin 64) (w : Word) :
    (s.writeEntry k e w).outl = s.outl := rfl
@[simp] theorem State.writeEntry_outh (s : State) (k : Fin 2) (e : Fin 64) (w : Word) :
    (s.writeEntry k e w).outh = s.outh := rfl
@[simp] theorem State.writeEntry_outf (s : State) (k : Fin 2) (e : Fin 64) (w : Word) :
    (s.writeEntry k e w).outf = s.outf := rfl
@[simp] theorem State.writeEntry_agenda (s : State) (k : Fin 2) (e : Fin 64) (w : Word) :
    (s.writeEntry k e w).agenda = s.agenda := rfl
@[simp] theorem State.writeEntry_rdata (s : State) (k : Fin 2) (e : Fin 64) (w : Word) :
    (s.writeEntry k e w).rdata = s.rdata := rfl
@[simp] theorem State.writeEntry_draws (s : State) (k : Fin 2) (e : Fin 64) (w : Word) :
    (s.writeEntry k e w).draws = s.draws := rfl

/-! ### `State.fillMatrix`: a matrix register filled -/

@[simp] theorem State.fillMatrix_br (s : State) (k : Fin 2) (w : Word) : (s.fillMatrix k w).br = s.br := rfl
@[simp] theorem State.fillMatrix_brv (s : State) (k : Fin 2) (w : Word) : (s.fillMatrix k w).brv = s.brv := rfl
@[simp] theorem State.fillMatrix_qm (s : State) (k : Fin 2) (w : Word) :
    (s.fillMatrix k w).qm = s.qm.set k (Vector.replicate 64 w) := rfl
@[simp] theorem State.fillMatrix_dim (s : State) (k : Fin 2) (w : Word) : (s.fillMatrix k w).dim = s.dim := rfl
@[simp] theorem State.fillMatrix_cur (s : State) (k : Fin 2) (w : Word) : (s.fillMatrix k w).cur = s.cur := rfl
@[simp] theorem State.fillMatrix_fb (s : State) (k : Fin 2) (w : Word) : (s.fillMatrix k w).fb = s.fb := rfl
@[simp] theorem State.fillMatrix_bdepth (s : State) (k : Fin 2) (w : Word) : (s.fillMatrix k w).bdepth = s.bdepth := rfl
@[simp] theorem State.fillMatrix_status (s : State) (k : Fin 2) (w : Word) : (s.fillMatrix k w).status = s.status := rfl
@[simp] theorem State.fillMatrix_errinfo (s : State) (k : Fin 2) (w : Word) :
    (s.fillMatrix k w).errinfo = s.errinfo := rfl
@[simp] theorem State.fillMatrix_pend (s : State) (k : Fin 2) (w : Word) : (s.fillMatrix k w).pend = s.pend := rfl
@[simp] theorem State.fillMatrix_lstat (s : State) (k : Fin 2) (w : Word) : (s.fillMatrix k w).lstat = s.lstat := rfl
@[simp] theorem State.fillMatrix_lcount (s : State) (k : Fin 2) (w : Word) : (s.fillMatrix k w).lcount = s.lcount := rfl
@[simp] theorem State.fillMatrix_inaDim (s : State) (k : Fin 2) (w : Word) : (s.fillMatrix k w).inaDim = s.inaDim := rfl
@[simp] theorem State.fillMatrix_inaFps (s : State) (k : Fin 2) (w : Word) : (s.fillMatrix k w).inaFps = s.inaFps := rfl
@[simp] theorem State.fillMatrix_inbDim (s : State) (k : Fin 2) (w : Word) : (s.fillMatrix k w).inbDim = s.inbDim := rfl
@[simp] theorem State.fillMatrix_inbFps (s : State) (k : Fin 2) (w : Word) : (s.fillMatrix k w).inbFps = s.inbFps := rfl
@[simp] theorem State.fillMatrix_fmem (s : State) (k : Fin 2) (w : Word) : (s.fillMatrix k w).fmem = s.fmem := rfl
@[simp] theorem State.fillMatrix_fmemLast (s : State) (k : Fin 2) (w : Word) :
    (s.fillMatrix k w).fmemLast = s.fmemLast := rfl
@[simp] theorem State.fillMatrix_fmemSize (s : State) (k : Fin 2) (w : Word) :
    (s.fillMatrix k w).fmemSize = s.fmemSize := rfl
@[simp] theorem State.fillMatrix_ina (s : State) (k : Fin 2) (w : Word) : (s.fillMatrix k w).ina = s.ina := rfl
@[simp] theorem State.fillMatrix_inb (s : State) (k : Fin 2) (w : Word) : (s.fillMatrix k w).inb = s.inb := rfl
@[simp] theorem State.fillMatrix_outl (s : State) (k : Fin 2) (w : Word) : (s.fillMatrix k w).outl = s.outl := rfl
@[simp] theorem State.fillMatrix_outh (s : State) (k : Fin 2) (w : Word) : (s.fillMatrix k w).outh = s.outh := rfl
@[simp] theorem State.fillMatrix_outf (s : State) (k : Fin 2) (w : Word) : (s.fillMatrix k w).outf = s.outf := rfl
@[simp] theorem State.fillMatrix_agenda (s : State) (k : Fin 2) (w : Word) : (s.fillMatrix k w).agenda = s.agenda := rfl
@[simp] theorem State.fillMatrix_rdata (s : State) (k : Fin 2) (w : Word) : (s.fillMatrix k w).rdata = s.rdata := rfl
@[simp] theorem State.fillMatrix_draws (s : State) (k : Fin 2) (w : Word) : (s.fillMatrix k w).draws = s.draws := rfl

/-! ### `State.withPending`: a word made pending -/

@[simp] theorem State.withPending_br (s : State) (w : Word) : (s.withPending w).br = s.br := rfl
@[simp] theorem State.withPending_brv (s : State) (w : Word) : (s.withPending w).brv = s.brv := rfl
@[simp] theorem State.withPending_qm (s : State) (w : Word) : (s.withPending w).qm = s.qm := rfl
@[simp] theorem State.withPending_dim (s : State) (w : Word) : (s.withPending w).dim = s.dim := rfl
@[simp] theorem State.withPending_cur (s : State) (w : Word) : (s.withPending w).cur = s.cur := rfl
@[simp] theorem State.withPending_fb (s : State) (w : Word) : (s.withPending w).fb = s.fb := rfl
@[simp] theorem State.withPending_bdepth (s : State) (w : Word) : (s.withPending w).bdepth = s.bdepth := rfl
@[simp] theorem State.withPending_status (s : State) (w : Word) : (s.withPending w).status = s.status.accepted := rfl
@[simp] theorem State.withPending_errinfo (s : State) (w : Word) : (s.withPending w).errinfo = s.errinfo := rfl
@[simp] theorem State.withPending_pend (s : State) (w : Word) : (s.withPending w).pend = some w := rfl
@[simp] theorem State.withPending_lstat (s : State) (w : Word) : (s.withPending w).lstat = s.lstat := rfl
@[simp] theorem State.withPending_lcount (s : State) (w : Word) : (s.withPending w).lcount = s.lcount := rfl
@[simp] theorem State.withPending_inaDim (s : State) (w : Word) : (s.withPending w).inaDim = s.inaDim := rfl
@[simp] theorem State.withPending_inaFps (s : State) (w : Word) : (s.withPending w).inaFps = s.inaFps := rfl
@[simp] theorem State.withPending_inbDim (s : State) (w : Word) : (s.withPending w).inbDim = s.inbDim := rfl
@[simp] theorem State.withPending_inbFps (s : State) (w : Word) : (s.withPending w).inbFps = s.inbFps := rfl
@[simp] theorem State.withPending_fmem (s : State) (w : Word) : (s.withPending w).fmem = s.fmem := rfl
@[simp] theorem State.withPending_fmemLast (s : State) (w : Word) : (s.withPending w).fmemLast = s.fmemLast := rfl
@[simp] theorem State.withPending_fmemSize (s : State) (w : Word) : (s.withPending w).fmemSize = s.fmemSize := rfl
@[simp] theorem State.withPending_ina (s : State) (w : Word) : (s.withPending w).ina = s.ina := rfl
@[simp] theorem State.withPending_inb (s : State) (w : Word) : (s.withPending w).inb = s.inb := rfl
@[simp] theorem State.withPending_outl (s : State) (w : Word) : (s.withPending w).outl = s.outl := rfl
@[simp] theorem State.withPending_outh (s : State) (w : Word) : (s.withPending w).outh = s.outh := rfl
@[simp] theorem State.withPending_outf (s : State) (w : Word) : (s.withPending w).outf = s.outf := rfl
@[simp] theorem State.withPending_agenda (s : State) (w : Word) : (s.withPending w).agenda = [] := rfl
@[simp] theorem State.withPending_rdata (s : State) (w : Word) : (s.withPending w).rdata = s.rdata := rfl
@[simp] theorem State.withPending_draws (s : State) (w : Word) : (s.withPending w).draws = s.draws := rfl

/-! ### `State.resetOperation`: the reset operation -/

@[simp] theorem State.resetOperation_br (s : State) : (s.resetOperation).br = State.reset.br := rfl
@[simp] theorem State.resetOperation_brv (s : State) : (s.resetOperation).brv = State.reset.brv := rfl
@[simp] theorem State.resetOperation_qm (s : State) : (s.resetOperation).qm = State.reset.qm := rfl
@[simp] theorem State.resetOperation_dim (s : State) : (s.resetOperation).dim = State.reset.dim := rfl
@[simp] theorem State.resetOperation_cur (s : State) : (s.resetOperation).cur = State.reset.cur := rfl
@[simp] theorem State.resetOperation_fb (s : State) : (s.resetOperation).fb = State.reset.fb := rfl
@[simp] theorem State.resetOperation_bdepth (s : State) : (s.resetOperation).bdepth = State.reset.bdepth := rfl
@[simp] theorem State.resetOperation_status (s : State) : (s.resetOperation).status = State.reset.status := rfl
@[simp] theorem State.resetOperation_errinfo (s : State) : (s.resetOperation).errinfo = State.reset.errinfo := rfl
@[simp] theorem State.resetOperation_pend (s : State) : (s.resetOperation).pend = State.reset.pend := rfl
@[simp] theorem State.resetOperation_lstat (s : State) : (s.resetOperation).lstat = State.reset.lstat := rfl
@[simp] theorem State.resetOperation_lcount (s : State) : (s.resetOperation).lcount = State.reset.lcount := rfl
@[simp] theorem State.resetOperation_inaDim (s : State) : (s.resetOperation).inaDim = State.reset.inaDim := rfl
@[simp] theorem State.resetOperation_inaFps (s : State) : (s.resetOperation).inaFps = State.reset.inaFps := rfl
@[simp] theorem State.resetOperation_inbDim (s : State) : (s.resetOperation).inbDim = State.reset.inbDim := rfl
@[simp] theorem State.resetOperation_inbFps (s : State) : (s.resetOperation).inbFps = State.reset.inbFps := rfl
@[simp] theorem State.resetOperation_fmem (s : State) : (s.resetOperation).fmem = s.fmem := rfl
@[simp] theorem State.resetOperation_fmemLast (s : State) : (s.resetOperation).fmemLast = s.fmemLast := rfl
@[simp] theorem State.resetOperation_fmemSize (s : State) : (s.resetOperation).fmemSize = s.fmemSize := rfl
@[simp] theorem State.resetOperation_ina (s : State) : (s.resetOperation).ina = s.ina := rfl
@[simp] theorem State.resetOperation_inb (s : State) : (s.resetOperation).inb = s.inb := rfl
@[simp] theorem State.resetOperation_outl (s : State) : (s.resetOperation).outl = s.outl := rfl
@[simp] theorem State.resetOperation_outh (s : State) : (s.resetOperation).outh = s.outh := rfl
@[simp] theorem State.resetOperation_outf (s : State) : (s.resetOperation).outf = s.outf := rfl
@[simp] theorem State.resetOperation_agenda (s : State) : (s.resetOperation).agenda = s.agenda := rfl
@[simp] theorem State.resetOperation_rdata (s : State) : (s.resetOperation).rdata = s.rdata := rfl
@[simp] theorem State.resetOperation_draws (s : State) : (s.resetOperation).draws = s.draws := rfl

/-! ### `State.resetInput`: the reset input -/

@[simp] theorem State.resetInput_br (s : State) (drawn : List Host.Cell) :
    (s.resetInput drawn).br = State.reset.br := rfl
@[simp] theorem State.resetInput_brv (s : State) (drawn : List Host.Cell) :
    (s.resetInput drawn).brv = State.reset.brv := rfl
@[simp] theorem State.resetInput_qm (s : State) (drawn : List Host.Cell) :
    (s.resetInput drawn).qm = State.reset.qm := rfl
@[simp] theorem State.resetInput_dim (s : State) (drawn : List Host.Cell) :
    (s.resetInput drawn).dim = State.reset.dim := rfl
@[simp] theorem State.resetInput_cur (s : State) (drawn : List Host.Cell) :
    (s.resetInput drawn).cur = State.reset.cur := rfl
@[simp] theorem State.resetInput_fb (s : State) (drawn : List Host.Cell) :
    (s.resetInput drawn).fb = State.reset.fb := rfl
@[simp] theorem State.resetInput_bdepth (s : State) (drawn : List Host.Cell) :
    (s.resetInput drawn).bdepth = State.reset.bdepth := rfl
@[simp] theorem State.resetInput_status (s : State) (drawn : List Host.Cell) :
    (s.resetInput drawn).status = State.reset.status := rfl
@[simp] theorem State.resetInput_errinfo (s : State) (drawn : List Host.Cell) :
    (s.resetInput drawn).errinfo = State.reset.errinfo := rfl
@[simp] theorem State.resetInput_pend (s : State) (drawn : List Host.Cell) :
    (s.resetInput drawn).pend = State.reset.pend := rfl
@[simp] theorem State.resetInput_lstat (s : State) (drawn : List Host.Cell) :
    (s.resetInput drawn).lstat = State.reset.lstat := rfl
@[simp] theorem State.resetInput_lcount (s : State) (drawn : List Host.Cell) :
    (s.resetInput drawn).lcount = State.reset.lcount := rfl
@[simp] theorem State.resetInput_inaDim (s : State) (drawn : List Host.Cell) :
    (s.resetInput drawn).inaDim = State.reset.inaDim := rfl
@[simp] theorem State.resetInput_inaFps (s : State) (drawn : List Host.Cell) :
    (s.resetInput drawn).inaFps = State.reset.inaFps := rfl
@[simp] theorem State.resetInput_inbDim (s : State) (drawn : List Host.Cell) :
    (s.resetInput drawn).inbDim = State.reset.inbDim := rfl
@[simp] theorem State.resetInput_inbFps (s : State) (drawn : List Host.Cell) :
    (s.resetInput drawn).inbFps = State.reset.inbFps := rfl
@[simp] theorem State.resetInput_fmem (s : State) (drawn : List Host.Cell) :
    (s.resetInput drawn).fmem = Memory.writeAll [] (drawn.filter fun c => decide (c.1 < s.fmemSize)) := rfl
@[simp] theorem State.resetInput_fmemLast (s : State) (drawn : List Host.Cell) :
    (s.resetInput drawn).fmemLast = s.fmemLast := rfl
@[simp] theorem State.resetInput_fmemSize (s : State) (drawn : List Host.Cell) :
    (s.resetInput drawn).fmemSize = s.fmemSize := rfl
@[simp] theorem State.resetInput_ina (s : State) (drawn : List Host.Cell) : (s.resetInput drawn).ina = s.ina := rfl
@[simp] theorem State.resetInput_inb (s : State) (drawn : List Host.Cell) : (s.resetInput drawn).inb = s.inb := rfl
@[simp] theorem State.resetInput_outl (s : State) (drawn : List Host.Cell) : (s.resetInput drawn).outl = s.outl := rfl
@[simp] theorem State.resetInput_outh (s : State) (drawn : List Host.Cell) : (s.resetInput drawn).outh = s.outh := rfl
@[simp] theorem State.resetInput_outf (s : State) (drawn : List Host.Cell) : (s.resetInput drawn).outf = s.outf := rfl
@[simp] theorem State.resetInput_agenda (s : State) (drawn : List Host.Cell) :
    (s.resetInput drawn).agenda = s.agenda := rfl
@[simp] theorem State.resetInput_rdata (s : State) (drawn : List Host.Cell) :
    (s.resetInput drawn).rdata = s.rdata := rfl
@[simp] theorem State.resetInput_draws (s : State) (drawn : List Host.Cell) :
    (s.resetInput drawn).draws = s.draws := rfl

/-! ### `State.captureMeta`: LOPEN's capture of the metadata -/

@[simp] theorem State.captureMeta_br (s : State) : (s.captureMeta).br = s.br := rfl
@[simp] theorem State.captureMeta_brv (s : State) : (s.captureMeta).brv = s.brv := rfl
@[simp] theorem State.captureMeta_qm (s : State) : (s.captureMeta).qm = s.qm := rfl
@[simp] theorem State.captureMeta_dim (s : State) : (s.captureMeta).dim = s.dim := rfl
@[simp] theorem State.captureMeta_cur (s : State) : (s.captureMeta).cur = s.cur := rfl
@[simp] theorem State.captureMeta_fb (s : State) : (s.captureMeta).fb = s.fb := rfl
@[simp] theorem State.captureMeta_bdepth (s : State) : (s.captureMeta).bdepth = s.bdepth := rfl
@[simp] theorem State.captureMeta_status (s : State) : (s.captureMeta).status = s.status := rfl
@[simp] theorem State.captureMeta_errinfo (s : State) : (s.captureMeta).errinfo = s.errinfo := rfl
@[simp] theorem State.captureMeta_pend (s : State) : (s.captureMeta).pend = s.pend := rfl
@[simp] theorem State.captureMeta_lstat (s : State) : (s.captureMeta).lstat = s.lstat := rfl
@[simp] theorem State.captureMeta_lcount (s : State) : (s.captureMeta).lcount = s.lcount := rfl
@[simp] theorem State.captureMeta_inaDim (s : State) :
    (s.captureMeta).inaDim = if s.ina.present then s.ina.info.dimWord else s.inaDim := rfl
@[simp] theorem State.captureMeta_inaFps (s : State) :
    (s.captureMeta).inaFps = if s.ina.present then s.ina.info.fps else s.inaFps := rfl
@[simp] theorem State.captureMeta_inbDim (s : State) :
    (s.captureMeta).inbDim = if s.inb.present then s.inb.info.dimWord else s.inbDim := rfl
@[simp] theorem State.captureMeta_inbFps (s : State) :
    (s.captureMeta).inbFps = if s.inb.present then s.inb.info.fps else s.inbFps := rfl
@[simp] theorem State.captureMeta_fmem (s : State) : (s.captureMeta).fmem = s.fmem := rfl
@[simp] theorem State.captureMeta_fmemLast (s : State) : (s.captureMeta).fmemLast = s.fmemLast := rfl
@[simp] theorem State.captureMeta_fmemSize (s : State) : (s.captureMeta).fmemSize = s.fmemSize := rfl
@[simp] theorem State.captureMeta_ina (s : State) : (s.captureMeta).ina = s.ina := rfl
@[simp] theorem State.captureMeta_inb (s : State) : (s.captureMeta).inb = s.inb := rfl
@[simp] theorem State.captureMeta_outl (s : State) : (s.captureMeta).outl = s.outl := rfl
@[simp] theorem State.captureMeta_outh (s : State) : (s.captureMeta).outh = s.outh := rfl
@[simp] theorem State.captureMeta_outf (s : State) : (s.captureMeta).outf = s.outf := rfl
@[simp] theorem State.captureMeta_agenda (s : State) : (s.captureMeta).agenda = s.agenda := rfl
@[simp] theorem State.captureMeta_rdata (s : State) : (s.captureMeta).rdata = s.rdata := rfl
@[simp] theorem State.captureMeta_draws (s : State) : (s.captureMeta).draws = s.draws := rfl

end Sys2Proof.Machine
end

