-- ==== Sys2Proof/Laws/Ops.lean ====
section
/-!
SUPPORT. One lemma for each shared operation that says once everything it can do.
-/

namespace Sys2Proof.Machine

/-- `FMEM_SIZE` is at least 1 on every platform (`00_scope.md` R6). -/
theorem State.fmemSize_pos (s : State) : 1 ≤ s.fmemSize := Nat.le_add_left 1 _

/-- `FMEM_SIZE` is at most 2^32 on every platform (`00_scope.md` R6). -/
theorem State.fmemSize_le (s : State) : s.fmemSize ≤ 2 ^ 32 := s.fmemLast.isLt

/-- A command's one step always answers a next state: it completed, or it took a fault. -/
theorem State.conclude_eq_next {s t : State} {r : Except FaultCode State} :
    s.conclude r = .next t ↔
      (∃ u, r = .ok u ∧ t = u.complete) ∨ (∃ c, r = .error c ∧ t = s.takeFault c) := by
  cases r <;> simp [State.conclude, eq_comm]

@[simp] theorem State.conclude_ok (s t : State) : s.conclude (.ok t) = .next t.complete := rfl

@[simp] theorem State.conclude_error (s : State) (c : FaultCode) :
    s.conclude (.error c) = .next (s.takeFault c) := rfl

/-- What a sequence of two checks can answer. -/
theorem except_bind_ok {α β : Type} {x : Except FaultCode α} {f : α → Except FaultCode β} {b : β} :
    (x >>= f) = .ok b ↔ ∃ a, x = .ok a ∧ f a = .ok b := by
  cases x <;> simp [bind, Except.bind]

theorem except_bind_error {α β : Type} {x : Except FaultCode α} {f : α → Except FaultCode β} {c : FaultCode} :
    (x >>= f) = .error c ↔ x = .error c ∨ ∃ a, x = .ok a ∧ f a = .error c := by
  cases x <;> simp [bind, Except.bind]

theorem blockSel_eq {r : Sel} (h : r.toNat < 4) : blockSel r = .ok ⟨r.toNat, h⟩ := dif_pos h

theorem blockSel_illegal {r : Sel} (h : ¬ r.toNat < 4) : blockSel r = .error .illegal := dif_neg h

theorem matrixSel_eq {q : Sel} (h : q.toNat < 2) : matrixSel q = .ok ⟨q.toNat, h⟩ := dif_pos h

theorem matrixSel_illegal {q : Sel} (h : ¬ q.toNat < 2) : matrixSel q = .error .illegal := dif_neg h

theorem slotSel_eq {f : Sel} (h : f.toNat < 4) : slotSel f = .ok ⟨f.toNat, h⟩ := dif_pos h

theorem slotSel_illegal {f : Sel} (h : ¬ f.toNat < 4) : slotSel f = .error .illegal := dif_neg h

/-- A block source answers the values of a register that is wholly valid and finite. -/
theorem State.srcBlock_ok {s : State} {k : Fin 4} {X : Block} :
    s.srcBlock k = .ok X ↔ s.blockValid k = true ∧ s.blockFinite k = true ∧ X = s.blockValues k := by
  unfold State.srcBlock
  cases s.blockValid k <;> cases s.blockFinite k <;> simp [eq_comm]

/-- A block source faults with `E_UNINIT` before `E_NUM`, and with nothing else. -/
theorem State.srcBlock_error {s : State} {k : Fin 4} {c : FaultCode} :
    s.srcBlock k = .error c ↔ (s.blockValid k = false ∧ c = .uninit) ∨
      (s.blockValid k = true ∧ s.blockFinite k = false ∧ c = .num) := by
  unfold State.srcBlock
  cases s.blockValid k <;> cases s.blockFinite k <;> simp [eq_comm]

/-- A matrix source answers the values of a register that is wholly finite and positive. -/
theorem State.matrix_ok {s : State} {k : Fin 2} {M : Block} :
    s.matrix k = .ok M ↔ s.matrixLegal k = true ∧ M = s.matrixValues k := by
  unfold State.matrix
  cases s.matrixLegal k <;> simp [eq_comm]

theorem State.matrix_error {s : State} {k : Fin 2} {c : FaultCode} :
    s.matrix k = .error c ↔ s.matrixLegal k = false ∧ c = .qm := by
  unfold State.matrix
  cases s.matrixLegal k <;> simp [eq_comm]

theorem settled_ok {α : Type} {r : Option α} {Y : α} : settled r = .ok Y ↔ r = some Y := by
  cases r <;> simp [settled]

theorem settled_error {α : Type} {r : Option α} {c : FaultCode} :
    settled r = .error c ↔ r = none ∧ c = .num := by
  cases r <;> simp [settled, eq_comm]

/-- `blockcheck` passes exactly when the cursor's block is inside a frame that fits. -/
theorem State.blockCheck_ok {s : State} {k : Fin 4} :
    s.blockCheck k = .ok () ↔ s.width ≠ 0 ∧ s.height ≠ 0 ∧ s.curCh ≠ 3 ∧ 8 * s.curBx + 8 ≤ s.width ∧
      8 * s.curBy + 8 ≤ s.height ∧ s.slotBase k + s.frameBytes ≤ s.fmemSize := by
  unfold State.blockCheck
  split
  · simp; omega
  · split
    · simp; omega
    · split
      · simp; omega
      · split
        · simp; omega
        · simp; omega

/-- `framecheck` passes exactly when the frame has a size, every slot fits and no source slot partly
overlaps the destination. -/
theorem State.frameCheck_ok {s : State} {d : Fin 4} {ks : List (Fin 4)} :
    s.frameCheck d ks = .ok () ↔ s.width ≠ 0 ∧ s.height ≠ 0 ∧
      (∀ k ∈ d :: ks, s.slotBase k + s.frameBytes ≤ s.fmemSize) ∧
      (∀ k ∈ ks, s.slotsClash k d = false) := by
  unfold State.frameCheck
  split
  · simp; omega
  · split
    · next h1 h2 =>
      simp only [List.any_eq_true, State.slotOverruns, decide_eq_true_eq] at h2
      obtain ⟨k, hk, hlt⟩ := h2
      simp only [reduceCtorEq, false_iff, not_and, not_forall]
      exact fun _ _ h => absurd (h k hk) (by omega)
    · split
      · next h1 h2 h3 =>
        obtain ⟨k, hk, hc⟩ := List.any_eq_true.1 h3
        simp only [reduceCtorEq, false_iff, not_and, not_forall]
        exact fun _ _ _ => ⟨k, hk, by simp [hc]⟩
      · next h1 h2 h3 =>
        simp only [true_iff]
        refine ⟨by omega, by omega, fun k hk => ?_, fun k hk => ?_⟩
        · by_contra hlt
          exact h2 (List.any_eq_true.2 ⟨k, hk, by simp [State.slotOverruns]; omega⟩)
        · by_contra hc
          exact h3 (List.any_eq_true.2 ⟨k, hk, by simpa using hc⟩)

/-- A list settles to its results when none is `OVERFLOW`. -/
theorem settleList_eq_some {α : Type} {xs : List (Option α)} {ys : List α} :
    settleList xs = some ys ↔ xs = ys.map some := by
  induction xs generalizing ys with
  | nil => cases ys <;> simp [settleList]
  | cons x xs ih =>
    cases x with
    | none => cases ys <;> simp [settleList]
    | some x =>
      simp only [settleList]
      cases ys with
      | nil => split <;> simp
      | cons y ys =>
        rw [List.map_cons, List.cons.injEq, ← ih]
        split <;> simp_all

/-- What a command with one block source can do. -/
theorem State.unaryBlock_ok {s t : State} {rd ra : Sel} {f : Block → Option Block} :
    s.unaryBlock rd ra f = .ok t ↔ ∃ d a Y, blockSel rd = .ok d ∧ blockSel ra = .ok a ∧
      s.blockValid a = true ∧ s.blockFinite a = true ∧ f (s.blockValues a) = some Y ∧
      t = s.writeBlock d Y := by
  unfold State.unaryBlock
  simp only [except_bind_ok, settled_ok, State.srcBlock_ok, Except.ok.injEq]
  constructor
  · rintro ⟨d, hd, a, ha, X, ⟨h1, h2, rfl⟩, Y, hY, rfl⟩
    exact ⟨d, a, Y, hd, ha, h1, h2, hY, rfl⟩
  · rintro ⟨d, a, Y, hd, ha, h1, h2, hY, rfl⟩
    exact ⟨d, hd, a, ha, _, ⟨h1, h2, rfl⟩, Y, hY, rfl⟩

/-- What a command with a block source and a matrix can do. -/
theorem State.matrixBlock_ok {s t : State} {rd ra qk : Sel} {f : Block → Block → Option Block} :
    s.matrixBlock rd ra qk f = .ok t ↔ ∃ d a q Y, blockSel rd = .ok d ∧ blockSel ra = .ok a ∧
      matrixSel qk = .ok q ∧ s.blockValid a = true ∧ s.blockFinite a = true ∧ s.matrixLegal q = true ∧
      f (s.blockValues a) (s.matrixValues q) = some Y ∧ t = s.writeBlock d Y := by
  unfold State.matrixBlock
  simp only [except_bind_ok, settled_ok, State.srcBlock_ok, State.matrix_ok, Except.ok.injEq]
  constructor
  · rintro ⟨d, hd, a, ha, q, hq, X, ⟨h1, h2, rfl⟩, M, ⟨h3, rfl⟩, Y, hY, rfl⟩
    exact ⟨d, a, q, Y, hd, ha, hq, h1, h2, h3, hY, rfl⟩
  · rintro ⟨d, a, q, Y, hd, ha, hq, h1, h2, h3, hY, rfl⟩
    exact ⟨d, hd, a, ha, q, hq, _, ⟨h1, h2, rfl⟩, _, ⟨h3, rfl⟩, Y, hY, rfl⟩

/-- What a command with two block sources can do. -/
theorem State.binaryBlock_ok {s t : State} {rd ra rb : Sel} {f : Block → Block → Option Block} :
    s.binaryBlock rd ra rb f = .ok t ↔ ∃ d a b Y, blockSel rd = .ok d ∧ blockSel ra = .ok a ∧
      blockSel rb = .ok b ∧ s.blockValid a = true ∧ s.blockFinite a = true ∧ s.blockValid b = true ∧
      s.blockFinite b = true ∧ f (s.blockValues a) (s.blockValues b) = some Y ∧ t = s.writeBlock d Y := by
  unfold State.binaryBlock
  simp only [except_bind_ok, settled_ok, State.srcBlock_ok, Except.ok.injEq]
  constructor
  · rintro ⟨d, hd, a, ha, b, hb, X, ⟨h1, h2, rfl⟩, Z, ⟨h3, h4, rfl⟩, Y, hY, rfl⟩
    exact ⟨d, a, b, Y, hd, ha, hb, h1, h2, h3, h4, hY, rfl⟩
  · rintro ⟨d, a, b, Y, hd, ha, hb, h1, h2, h3, h4, hY, rfl⟩
    exact ⟨d, hd, a, ha, b, hb, _, ⟨h1, h2, rfl⟩, _, ⟨h3, h4, rfl⟩, Y, hY, rfl⟩

/-- What LOPEN's second phase does, by whether both inputs are present. -/
theorem State.openPorts_present {s : State} (ha : s.ina.present = true) (hb : s.inb.present = true) :
    s.openPorts = { s.captureMeta with
      outl := s.outl.openWith s.ina.info
      outh := s.outh.openWith s.inb.info
      outf := s.outf.openWith s.inb.info
      lstat := { s.lstat with faila := false, failb := false, state := .streaming } } := by
  simp [State.openPorts, ha, hb]

theorem State.openPorts_absent {s : State} (h : ¬ (s.ina.present = true ∧ s.inb.present = true)) :
    s.openPorts = { s.captureMeta with
      lstat := { s.lstat with
        faila := !s.ina.present, failb := !s.inb.present, openerr := true, state := .closed } } := by
  simp only [State.openPorts, if_neg h]

/-- A pair-step on two Frames. -/
theorem State.pairStep_frames {s : State} {ta tb : FrameToken} (ha : s.ina.token = some ta)
    (hb : s.inb.token = some tb) :
    s.pairStep = { s with
      ina := s.ina.consumed
      inb := s.inb.consumed
      outl := s.outl.append ta
      outh := s.outh.append tb
      outf := s.outf.append tb
      lcount := s.lcount + 1 } := by
  simp [State.pairStep, ha, hb]

/-- A pair-step that reads at least one `EOS`. -/
theorem State.pairStep_eos {s : State} (h : s.ina.token = none ∨ s.inb.token = none) :
    s.pairStep = { s with
      ina := s.ina.consumed
      inb := s.inb.consumed
      outl := s.outl.close
      outh := s.outh.close
      outf := s.outf.close
      lstat := { s.lstat with eosa := s.ina.token.isNone, eosb := s.inb.token.isNone, state := .closed } } := by
  unfold State.pairStep
  split
  · next ha hb => rcases h with h | h <;> simp_all
  · rfl

end Sys2Proof.Machine
end

