-- ==== Sys2Proof/Laws/Transform.lean ====
section
/-!
SUPPORT. The computations of the machine answer exactly the relations of `Safety.lean`, and the checks of the
operands answer exactly its predicates.
-/

namespace Sys2Proof.Machine

theorem dot8_eq_sum (a b : Fin 8 → Int) : dot8 a b = fl32 (∑ n : Fin 8, a n * b n) (2 ^ 149) := by
  simp only [dot8, Fin.sum_univ_eight, show one32 = 2 ^ 149 from rfl]

/-- A grid of 64 results settles when every row and column has its result. -/
theorem settle_grid {Y : Vector (Option Int) 64} {Z : Block} (g : Fin 8 → Fin 8 → Option Int)
    (hY : Y = Vector.ofFn fun e => g (rowOf e) (colOf e)) :
    settle Y = some Z ↔ ∀ r c, g r c = some (at8 Z r c) := by
  rw [settle_eq_some, hY]
  constructor
  · intro h r c
    have := h ⟨8 * r.val + c.val, by omega⟩
    have h1 : (8 * r.val + c.val) / 8 = r.val := by omega
    have h3 : c.val % 8 = c.val := Nat.mod_eq_of_lt c.2
    simp only [Fin.getElem_fin, Vector.getElem_ofFn, rowOf, colOf, h1, Nat.mul_add_mod_self_left, h3,
      Fin.eta] at this
    rw [this]
    rfl
  · intro h e
    have := h (rowOf e) (colOf e)
    simp only [Fin.getElem_fin, Vector.getElem_ofFn]
    rw [this]
    simp only [at8, rowOf, colOf]
    congr 2
    omega

theorem fdct_iff_isForward {X Y : Block} : fdct X = some Y ↔ IsForward X Y := by
  rw [fdct_eq_some]
  unfold IsForward fdctRows fdctCols
  refine exists_congr fun T => ?_
  rw [settle_grid (fun r c => dot8 (fun n => coef c n) (fun n => at8 X r n)) rfl,
    settle_grid (fun r c => dot8 (fun n => coef r n) (fun n => at8 T n c)) rfl]
  simp only [dot8_eq_sum]

theorem idct_iff_isInverse {Y X : Block} : idct Y = some X ↔ IsInverse Y X := by
  rw [idct_eq_some]
  unfold IsInverse idctRows idctCols
  refine exists_congr fun T => ?_
  rw [settle_grid (fun r c => dot8 (fun n => coef n r) (fun n => at8 Y n c)) rfl,
    settle_grid (fun r c => dot8 (fun n => coef n c) (fun n => at8 T r n)) rfl]
  simp only [dot8_eq_sum]

theorem quantBlock_iff_isQuant {X M Y : Block} : quantBlock X M = some Y ↔ IsQuant X M Y := by
  refine lanes_eq_some.trans (forall_congr' fun e => ?_)
  simp only [quantLane, show one32 = 2 ^ 149 from rfl, ofInteger, rneInt]
  push_cast
  simp only [Fin.getElem_fin]
  generalize fl32 _ _ = o
  cases o with
  | none => simp
  | some t => simp [eq_comm]

theorem dequantBlock_iff_isDequant {X M Y : Block} : dequantBlock X M = some Y ↔ IsDequant X M Y :=
  lanes_eq_some

theorem subBlock_iff_isDifference {X Z Y : Block} : subBlock X Z = some Y ↔ IsDifference X Z Y :=
  lanes_eq_some

theorem addBlock_iff_isSum {X Z Y : Block} : addBlock X Z = some Y ↔ IsSum X Z Y := lanes_eq_some

theorem basePath_iff_isBaseBlock {M X Z : Block} : basePath M X = some Z ↔ IsBaseBlock M X Z := by
  rw [basePath_eq_some]
  simp only [fdct_iff_isForward, quantBlock_iff_isQuant, dequantBlock_iff_isDequant, idct_iff_isInverse]
  exact ⟨fun ⟨Y, h1, Q, h2, D, h3, h4⟩ => ⟨Y, Q, D, h1, h2, h3, h4⟩,
    fun ⟨Y, Q, D, h1, h2, h3, h4⟩ => ⟨Y, h1, Q, h2, D, h3, h4⟩⟩

theorem enhPath_iff_isEnhancedBlock {M O B Q E : Block} :
    enhPath M O B = some (Q, E) ↔ IsEnhancedBlock M O B Q E := by
  rw [enhPath_eq_some]
  simp only [fdct_iff_isForward, quantBlock_iff_isQuant, dequantBlock_iff_isDequant, idct_iff_isInverse,
    subBlock_iff_isDifference, addBlock_iff_isSum]
  exact ⟨fun ⟨R, h1, Y, h2, h3, D, h4, F, h5, h6⟩ => ⟨R, Y, D, F, h1, h2, h3, h4, h5, h6⟩,
    fun ⟨R, Y, D, F, h1, h2, h3, h4, h5, h6⟩ => ⟨R, h1, Y, h2, h3, D, h4, F, h5, h6⟩⟩

@[simp] theorem blockSel_sel (k : Fin 4) : blockSel (sel k) = .ok k := by revert k; decide

@[simp] theorem slotSel_sel (k : Fin 4) : slotSel (sel k) = .ok k := by revert k; decide

@[simp] theorem matrixSel_sel (q : Fin 2) : matrixSel (sel q) = .ok q := by revert q; decide

theorem State.srcBlock_uninit {s : State} {k : Fin 4} (h : ¬ AllValid s k) : s.srcBlock k = .error .uninit :=
  State.srcBlock_error.2 (.inl ⟨by simpa [State.blockValid, AllValid] using h, rfl⟩)

theorem State.srcBlock_num {s : State} {k : Fin 4} (h : AllValid s k) (h2 : ¬ AllFinite s k) :
    s.srcBlock k = .error .num :=
  State.srcBlock_error.2 (.inr ⟨by simpa [State.blockValid, AllValid] using h,
    by simpa [State.blockFinite, AllFinite] using h2, rfl⟩)

theorem State.srcBlock_values {s : State} {k : Fin 4} (h : AllValid s k) (h2 : AllFinite s k) :
    s.srcBlock k = .ok (valuesOf s k) :=
  State.srcBlock_ok.2 ⟨by simpa [State.blockValid, AllValid] using h,
    by simpa [State.blockFinite, AllFinite] using h2, rfl⟩

theorem State.matrix_qm {s : State} {q : Fin 2} (h : ¬ MatrixReady s q) : s.matrix q = .error .qm :=
  State.matrix_error.2 ⟨by simpa [State.matrixLegal, MatrixReady] using h, rfl⟩

theorem State.matrix_entries {s : State} {q : Fin 2} (h : MatrixReady s q) :
    s.matrix q = .ok (entriesOf s q) :=
  State.matrix_ok.2 ⟨by simpa [State.matrixLegal, MatrixReady] using h, rfl⟩

theorem State.takeFault_eq_faultOf (s : State) (c : FaultCode) : s.takeFault c = faultOf s c := rfl

theorem State.complete_eq_endOf (s : State) : s.complete = endOf s := rfl

theorem State.writeBlock_eq_blockWritten (s : State) (k : Fin 4) (Y : Block) :
    s.writeBlock k Y = blockWritten s k Y := rfl

end Sys2Proof.Machine
end

