-- ==== Sys2Proof/Laws/Frame.lean ====
section
/-!
SUPPORT. Where the samples of a frame lie, what the walks visit, and what FMEM holds after a frame command.
-/

namespace Sys2Proof.Machine

theorem State.frameBytes_eq (s : State) : s.frameBytes = 3 * s.width * s.height := rfl

theorem State.loadBlock_eq_samplesAt (s : State) (k : Fin 4) (ch row col : Nat) :
    s.loadBlock k ch row col = samplesAt s k ch row col := by
  simp [State.loadBlock, samplesAt, fromU8, ofInteger, one32]

theorem raster_inj {w q q' x x' : Nat} (hx : x < w) (hx' : x' < w) (h : q * w + x = q' * w + x') :
    q = q' ∧ x = x' := by
  have h1 : (q * w + x) / w = q := by
    rw [Nat.add_comm, Nat.add_mul_div_right _ _ (by omega), Nat.div_eq_of_lt hx]; omega
  have h2 : (q' * w + x') / w = q' := by
    rw [Nat.add_comm, Nat.add_mul_div_right _ _ (by omega), Nat.div_eq_of_lt hx']; omega
  have hq : q = q' := by rw [← h1, h, h2]
  subst hq
  omega

/-- Two samples of a frame with one address are one sample. -/
theorem State.addr_inj {s : State} {k : Fin 4} {ch y x ch' y' x' : Nat} (hy : y < s.height)
    (hx : x < s.width) (hy' : y' < s.height) (hx' : x' < s.width)
    (h : s.addr k ch y x = s.addr k ch' y' x') : ch = ch' ∧ y = y' ∧ x = x' := by
  unfold State.addr at h
  have h1 := raster_inj hx hx'
    (by omega : (ch * s.height + y) * s.width + x = (ch' * s.height + y') * s.width + x')
  have h2 := raster_inj hy hy' h1.1
  omega

/-- A sample of a frame lies inside its slot. -/
theorem State.addr_bounds {s : State} {k : Fin 4} {ch y x : Nat} (hc : ch < 3) (hy : y < s.height)
    (hx : x < s.width) :
    s.fb[k].toNat ≤ s.addr k ch y x ∧ s.addr k ch y x < s.fb[k].toNat + 3 * s.width * s.height := by
  unfold State.addr State.slotBase
  constructor
  · omega
  · have h1 : ch * s.height + y + 1 ≤ 3 * s.height := by nlinarith
    have h2 : (ch * s.height + y + 1) * s.width ≤ 3 * s.height * s.width := Nat.mul_le_mul_right _ h1
    have h3 : 3 * s.height * s.width = 3 * s.width * s.height := by ring
    rw [add_mul, one_mul] at h2
    omega

/-- Two elements of full blocks with one address are one element. -/
theorem State.ea_inj {s : State} {k : Fin 4} {ch r c ch' r' c' : Nat} {e e' : Fin 64}
    (hr : 8 * r + 8 ≤ s.height) (hc : 8 * c + 8 ≤ s.width) (hr' : 8 * r' + 8 ≤ s.height)
    (hc' : 8 * c' + 8 ≤ s.width) (h : s.ea k ch r c e = s.ea k ch' r' c' e') :
    ch = ch' ∧ r = r' ∧ c = c' ∧ e = e' := by
  unfold State.ea at h
  have := State.addr_inj (by omega) (by omega) (by omega) (by omega) h
  exact ⟨this.1, by omega, by omega, Fin.ext (by omega)⟩

theorem State.blockCheck_geom {s : State} {k : Fin 4} (h : ¬ CursorOnBlock s) :
    s.blockCheck k = .error .geom := by
  unfold CursorOnBlock at h
  unfold State.blockCheck
  split
  · rfl
  · split
    · rfl
    · split
      · rfl
      · omega

theorem State.blockCheck_fmem {s : State} {k : Fin 4} (h : CursorOnBlock s) (h2 : ¬ SlotFits s k) :
    s.blockCheck k = .error .fmem := by
  obtain ⟨h3, h4, h5, h6, h7⟩ := h
  unfold SlotFits at h2
  unfold State.blockCheck State.slotBase
  rw [State.frameBytes_eq, if_neg (by omega), if_neg (by omega), if_neg (by omega), if_pos (by omega)]

theorem State.blockCheck_pass {s : State} {k : Fin 4} (h : CursorOnBlock s) (h2 : SlotFits s k) :
    s.blockCheck k = .ok () := by
  obtain ⟨h3, h4, h5, h6, h7⟩ := h
  exact State.blockCheck_ok.2 ⟨h3, h4, h5, h6, h7, h2⟩

theorem State.slotsClash_iff {s : State} {i j : Fin 4} : s.slotsClash i j = false ↔ Compatible s i j := by
  unfold State.slotsClash Compatible
  rw [decide_eq_false_iff_not]
  simp only [State.slotBase, State.frameBytes_eq]
  constructor
  · intro h
    by_cases hh : s.fb[i] = s.fb[j]
    · exact .inl hh
    · have hne : s.fb[i].toNat ≠ s.fb[j].toNat := fun hn => hh (BitVec.eq_of_toNat_eq hn)
      right
      by_contra hc
      push Not at hc
      exact h ⟨hne, hc.2, hc.1⟩
  · rintro (h | h | h)
    · simp [h]
    · omega
    · omega

theorem State.frameCheck_iff_frameOk {s : State} {d : Fin 4} {ks : List (Fin 4)} :
    s.frameCheck d ks = .ok () ↔ FrameOk s d ks := by
  rw [State.frameCheck_ok]
  simp only [State.slotsClash_iff, FrameOk, SlotFits, State.slotBase, State.frameBytes_eq]

theorem State.frameCheck_geom {s : State} {d : Fin 4} {ks : List (Fin 4)} (h : s.width = 0 ∨ s.height = 0) :
    s.frameCheck d ks = .error .geom := by
  unfold State.frameCheck
  rw [if_pos h]

theorem State.frameCheck_fmem {s : State} {d : Fin 4} {ks : List (Fin 4)} (h : s.width ≠ 0)
    (h2 : s.height ≠ 0) (h3 : ¬ FrameOk s d ks) : s.frameCheck d ks = .error .fmem := by
  rw [← State.frameCheck_iff_frameOk] at h3
  unfold State.frameCheck at h3 ⊢
  rw [if_neg (by omega)] at h3 ⊢
  split
  · rfl
  · split
    · rfl
    · simp_all

/-- The block walk visits exactly the full blocks. -/
theorem State.mem_blockWalk {s : State} {p : BlockPos} :
    p ∈ s.blockWalk ↔ IsFullBlock s p.ch p.row p.col := by
  simp only [State.blockWalk, List.mem_flatMap, List.mem_map, List.mem_range, Config.channels,
    State.blockRows, State.blockCols, IsFullBlock]
  constructor
  · rintro ⟨ch, h1, r, h2, c, h3, rfl⟩
    refine ⟨h1, ?_, ?_⟩ <;> simp only <;> omega
  · rintro ⟨h1, h2, h3⟩
    exact ⟨_, h1, _, (by omega), _, (by omega), rfl⟩

/-- The edge walk visits exactly the edge samples. -/
theorem State.mem_edgeWalk {s : State} {p : SamplePos} :
    p ∈ s.edgeWalk ↔ IsEdgeSample s p.ch p.y p.x := by
  have hedge : ∀ y x, s.isEdge y x = true ↔ (8 * (s.width / 8) ≤ x ∨ 8 * (s.height / 8) ≤ y) := by
    intro y x
    unfold State.isEdge
    rw [Bool.or_eq_true, decide_eq_true_eq, decide_eq_true_eq]
    rfl
  simp only [State.edgeWalk, List.mem_flatMap, List.mem_map, List.mem_range, Config.channels,
    IsEdgeSample, List.mem_filter, hedge]
  constructor
  · rintro ⟨ch, h1, r, h2, c, h3, rfl⟩
    exact ⟨h1, h2, h3.1, h3.2⟩
  · rintro ⟨h1, h2, h3, h4⟩
    exact ⟨_, h1, _, h2, _, ⟨h3, h4⟩, rfl⟩

theorem State.blockWalk_eq_nil {s : State} (h : s.width < 8 ∨ s.height < 8) : s.blockWalk = [] := by
  rw [List.eq_nil_iff_forall_not_mem]
  intro p hp
  have := State.mem_blockWalk.1 hp
  unfold IsFullBlock at this
  omega

/-- The last full block in walk order (`44_residual_enh.md` R170). -/
theorem State.blockWalk_getLast? {s : State} (h : 8 ≤ s.width) (h2 : 8 ≤ s.height) :
    s.blockWalk.getLast? = some ⟨2, s.height / 8 - 1, s.width / 8 - 1⟩ := by
  have hc : s.blockCols = (s.width / 8 - 1) + 1 := by unfold State.blockCols; omega
  have hr : s.blockRows = (s.height / 8 - 1) + 1 := by unfold State.blockRows; omega
  simp only [State.blockWalk, Config.channels, hc, hr, List.range_succ, List.flatMap_append,
    List.flatMap_cons, List.flatMap_nil, List.map_append, List.append_nil, List.map_cons, List.map_nil]
  simp [List.getLast?_append, List.getLast?_cons]

theorem settleList_map_none {α β : Type} {l : List α} {f : α → Option β} (h : ∃ p ∈ l, f p = none) :
    settleList (l.map f) = none := by
  cases hs : settleList (l.map f) with
  | none => rfl
  | some ys =>
    obtain ⟨p, hp, hn⟩ := h
    have hmem : none ∈ l.map f := List.mem_map.2 ⟨p, hp, hn⟩
    rw [settleList_eq_some.1 hs] at hmem
    simp at hmem

theorem settleList_map_some {α β : Type} {l : List α} {f : α → Option β} (h : ∀ p ∈ l, (f p).isSome = true) :
    ∃ rs, settleList (l.map f) = some rs ∧ l.map f = rs.map some := by
  have hmap : l.map f = (l.filterMap f).map some := by
    induction l with
    | nil => rfl
    | cons p l ih =>
      obtain ⟨y, hy⟩ := Option.isSome_iff_exists.1 (h p List.mem_cons_self)
      rw [List.map_cons, List.filterMap_cons, hy, ih fun p hp => h p (List.mem_cons_of_mem _ hp)]
      rfl
  exact ⟨_, settleList_eq_some.2 hmap, hmap⟩

theorem State.mem_edgeCells {s : State} {d src : Fin 4} {c : Host.Cell} (hc : c ∈ s.edgeCells d src) :
    ∃ ch y x, IsEdgeSample s ch y x ∧ c = (s.addr d ch y x, Memory.read s.fmem (s.addr src ch y x)) := by
  obtain ⟨p, hp, rfl⟩ := List.mem_map.1 hc
  exact ⟨p.ch, p.y, p.x, State.mem_edgeWalk.1 hp, rfl⟩

theorem State.mem_frameCells {s : State} {d : Fin 4} {rs : List (BlockPos × Block)} {c : Host.Cell}
    (hc : c ∈ s.frameCells d rs) :
    ∃ r ∈ rs, ∃ e : Fin 64, c = (s.ea d r.1.ch r.1.row r.1.col e, toU8 r.2[e]) := by
  obtain ⟨r, hr, hc⟩ := List.mem_flatMap.1 hc
  obtain ⟨e, -, rfl⟩ := List.mem_map.1 hc
  exact ⟨r, hr, e, rfl⟩

/-- The bytes a frame command writes lie in its destination slot. -/
theorem State.frame_cells_bounds {s : State} {d src : Fin 4} {rs : List (BlockPos × Block)}
    (hrs : ∀ r ∈ rs, r.1 ∈ s.blockWalk) :
    ∀ c ∈ s.edgeCells d src ++ s.frameCells d rs,
      s.fb[d].toNat ≤ c.1 ∧ c.1 < s.fb[d].toNat + 3 * s.width * s.height := by
  intro c hc
  rcases List.mem_append.1 hc with hc | hc
  · obtain ⟨ch, y, x, he, rfl⟩ := State.mem_edgeCells hc
    exact State.addr_bounds he.1 he.2.1 he.2.2.1
  · obtain ⟨r, hr, e, rfl⟩ := State.mem_frameCells hc
    obtain ⟨h1, h2, h3⟩ := State.mem_blockWalk.1 (hrs r hr)
    exact State.addr_bounds h1 (by omega) (by omega)

/-- What FMEM holds after the writes of a frame command: the edge samples of `src`, the block results, and
every byte outside the destination slot as it was. -/
theorem State.read_frame {s : State} {d src : Fin 4} {rs : List (BlockPos × Block)}
    (hw : Memory.wf s.fmem = true) (hrs : ∀ r ∈ rs, r.1 ∈ s.blockWalk)
    (huniq : ∀ r ∈ rs, ∀ r' ∈ rs, r.1 = r'.1 → r = r') :
    let m := Memory.writeAll s.fmem (s.edgeCells d src ++ s.frameCells d rs)
    (∀ ch y x, IsEdgeSample s ch y x →
      Memory.read m (s.addr d ch y x) = Memory.read s.fmem (s.addr src ch y x)) ∧
    (∀ r ∈ rs, ∀ e : Fin 64, Memory.read m (s.ea d r.1.ch r.1.row r.1.col e) = toU8 r.2[e]) ∧
    ∀ b, (b < s.fb[d].toNat ∨ s.fb[d].toNat + 3 * s.width * s.height ≤ b) →
      Memory.read m b = Memory.read s.fmem b := by
  have hsep : ∀ ch y x r (e : Fin 64), IsEdgeSample s ch y x → r ∈ rs →
      s.ea d r.1.ch r.1.row r.1.col e ≠ s.addr d ch y x := by
    intro ch y x r e he hr h
    obtain ⟨h1, h2, h3⟩ := State.mem_blockWalk.1 (hrs r hr)
    obtain ⟨g1, g2, g3, g4⟩ := he
    have := State.addr_inj (s := s) (by omega) (by omega) g2 g3 h
    omega
  refine ⟨fun ch y x he => ?_, fun r hr e => ?_, fun b hb => ?_⟩
  · refine Memory.read_writeAll_mem hw _ _ _ (List.mem_append.2 (.inl ?_)) fun c hc hca => ?_
    · exact List.mem_map.2 ⟨⟨ch, y, x⟩, State.mem_edgeWalk.2 he, rfl⟩
    · rcases List.mem_append.1 hc with hc | hc
      · obtain ⟨ch', y', x', he', rfl⟩ := State.mem_edgeCells hc
        obtain ⟨rfl, rfl, rfl⟩ := State.addr_inj he'.2.1 he'.2.2.1 he.2.1 he.2.2.1 hca
        rfl
      · obtain ⟨r, hr, e, rfl⟩ := State.mem_frameCells hc
        exact absurd hca (hsep ch y x r e he hr)
  · refine Memory.read_writeAll_mem hw _ _ _ (List.mem_append.2 (.inr ?_)) fun c hc hca => ?_
    · exact List.mem_flatMap.2 ⟨r, hr, List.mem_map.2 ⟨e, List.mem_finRange e, rfl⟩⟩
    · rcases List.mem_append.1 hc with hc | hc
      · obtain ⟨ch', y', x', he', rfl⟩ := State.mem_edgeCells hc
        exact absurd hca.symm (hsep _ _ _ r e he' hr)
      · obtain ⟨r', hr', e', rfl⟩ := State.mem_frameCells hc
        obtain ⟨h1, h2, h3⟩ := State.mem_blockWalk.1 (hrs r hr)
        obtain ⟨h1', h2', h3'⟩ := State.mem_blockWalk.1 (hrs r' hr')
        obtain ⟨q1, q2, q3, rfl⟩ := State.ea_inj h2' h3' h2 h3 hca
        have heq : r' = r := huniq r' hr' r hr (by cases hA : r'.1; cases hB : r.1; simp_all)
        rw [heq]
  · refine Memory.read_writeAll_other hw _ _ fun c hc => ?_
    have := State.frame_cells_bounds hrs c hc
    omega

end Sys2Proof.Machine
end

