-- ==== Sys2Proof/Laws/PerInstr.lean ====
section
/-!
SUPPORT. Per-instruction laws: the word of every well-formed command fits its row of `30_encoding.md` R86.
-/

namespace Sys2Proof.Laws

theorem sel_block_cases : ∀ r : Sel, Sel.isBlock r = true → r = 0 ∨ r = 1 ∨ r = 2 ∨ r = 3 := by decide

theorem sel_slot_cases : ∀ r : Sel, Sel.isSlot r = true → r = 0 ∨ r = 1 ∨ r = 2 ∨ r = 3 := by decide

theorem sel_matrix_cases : ∀ q : Sel, Sel.isMatrix q = true → q = 0 ∨ q = 1 := by decide

/-- A well-formed command's word, under its row's mask, is its row's match. -/
def EncodeFitsRow.Statement (i : Instr) : Prop :=
  i.wellFormed = true → encode i &&& i.row.mask = i.row.matchWord

theorem EncodeFitsRow.nop : EncodeFitsRow.Statement .nop := fun _ => rfl

theorem EncodeFitsRow.clrerr : EncodeFitsRow.Statement .clrerr := fun _ => rfl

theorem EncodeFitsRow.sreset : EncodeFitsRow.Statement .sreset := fun _ => rfl

theorem EncodeFitsRow.fdct (rd ra : Sel) : EncodeFitsRow.Statement (.fdct rd ra) := by
  intro h
  simp only [Instr.wellFormed, Bool.and_eq_true] at h
  obtain rfl | rfl | rfl | rfl := sel_block_cases rd h.1 <;>
    obtain rfl | rfl | rfl | rfl := sel_block_cases ra h.2 <;> rfl

theorem EncodeFitsRow.idct (rd ra : Sel) : EncodeFitsRow.Statement (.idct rd ra) := by
  intro h
  simp only [Instr.wellFormed, Bool.and_eq_true] at h
  obtain rfl | rfl | rfl | rfl := sel_block_cases rd h.1 <;>
    obtain rfl | rfl | rfl | rfl := sel_block_cases ra h.2 <;> rfl

theorem EncodeFitsRow.quant (rd ra qk : Sel) : EncodeFitsRow.Statement (.quant rd ra qk) := by
  intro h
  simp only [Instr.wellFormed, Bool.and_eq_true] at h
  obtain rfl | rfl | rfl | rfl := sel_block_cases rd h.1.1 <;>
    obtain rfl | rfl | rfl | rfl := sel_block_cases ra h.1.2 <;>
    obtain rfl | rfl := sel_matrix_cases qk h.2 <;> rfl

theorem EncodeFitsRow.dequant (rd ra qk : Sel) : EncodeFitsRow.Statement (.dequant rd ra qk) := by
  intro h
  simp only [Instr.wellFormed, Bool.and_eq_true] at h
  obtain rfl | rfl | rfl | rfl := sel_block_cases rd h.1.1 <;>
    obtain rfl | rfl | rfl | rfl := sel_block_cases ra h.1.2 <;>
    obtain rfl | rfl := sel_matrix_cases qk h.2 <;> rfl

theorem EncodeFitsRow.clip (rd ra : Sel) : EncodeFitsRow.Statement (.clip rd ra) := by
  intro h
  simp only [Instr.wellFormed, Bool.and_eq_true] at h
  obtain rfl | rfl | rfl | rfl := sel_block_cases rd h.1 <;>
    obtain rfl | rfl | rfl | rfl := sel_block_cases ra h.2 <;> rfl

theorem EncodeFitsRow.sub (rd ra rb : Sel) : EncodeFitsRow.Statement (.sub rd ra rb) := by
  intro h
  simp only [Instr.wellFormed, Bool.and_eq_true] at h
  obtain rfl | rfl | rfl | rfl := sel_block_cases rd h.1.1 <;>
    obtain rfl | rfl | rfl | rfl := sel_block_cases ra h.1.2 <;>
    obtain rfl | rfl | rfl | rfl := sel_block_cases rb h.2 <;> rfl

theorem EncodeFitsRow.add (rd ra rb : Sel) : EncodeFitsRow.Statement (.add rd ra rb) := by
  intro h
  simp only [Instr.wellFormed, Bool.and_eq_true] at h
  obtain rfl | rfl | rfl | rfl := sel_block_cases rd h.1.1 <;>
    obtain rfl | rfl | rfl | rfl := sel_block_cases ra h.1.2 <;>
    obtain rfl | rfl | rfl | rfl := sel_block_cases rb h.2 <;> rfl

theorem EncodeFitsRow.bitdep (ra : Sel) : EncodeFitsRow.Statement (.bitdep ra) := by
  intro h
  obtain rfl | rfl | rfl | rfl := sel_block_cases ra h <;> rfl

theorem EncodeFitsRow.ldb (rd fs : Sel) : EncodeFitsRow.Statement (.ldb rd fs) := by
  intro h
  simp only [Instr.wellFormed, Bool.and_eq_true] at h
  obtain rfl | rfl | rfl | rfl := sel_block_cases rd h.1 <;>
    obtain rfl | rfl | rfl | rfl := sel_slot_cases fs h.2 <;> rfl

theorem EncodeFitsRow.stb (fd rs : Sel) : EncodeFitsRow.Statement (.stb fd rs) := by
  intro h
  simp only [Instr.wellFormed, Bool.and_eq_true] at h
  obtain rfl | rfl | rfl | rfl := sel_slot_cases fd h.1 <;>
    obtain rfl | rfl | rfl | rfl := sel_block_cases rs h.2 <;> rfl

theorem EncodeFitsRow.qmfill (qk : Sel) (scale : BitVec 16) : EncodeFitsRow.Statement (.qmfill qk scale) := by
  intro h
  have hlow : ∀ d m : BitVec 16,
      ((d ++ scale : BitVec (16 + 16)) &&& (m ++ 0#16 : BitVec (16 + 16))) = (d &&& m) ++ 0#16 := by
    intro d m
    exact BitVec.and_append.trans (by rw [BitVec.and_zero])
  refine (hlow (0x28#8 ++ qk ++ 0#4) 0xFFEF#16).trans ?_
  obtain rfl | rfl := sel_matrix_cases qk h <;> rfl

theorem EncodeFitsRow.basef (fd fs qk : Sel) : EncodeFitsRow.Statement (.basef fd fs qk) := by
  intro h
  simp only [Instr.wellFormed, Bool.and_eq_true] at h
  obtain rfl | rfl | rfl | rfl := sel_slot_cases fd h.1.1 <;>
    obtain rfl | rfl | rfl | rfl := sel_slot_cases fs h.1.2 <;>
    obtain rfl | rfl := sel_matrix_cases qk h.2 <;> rfl

theorem EncodeFitsRow.enhf (fd fo fb qk : Sel) : EncodeFitsRow.Statement (.enhf fd fo fb qk) := by
  intro h
  simp only [Instr.wellFormed, Bool.and_eq_true] at h
  obtain rfl | rfl | rfl | rfl := sel_slot_cases fd h.1.1.1 <;>
    obtain rfl | rfl | rfl | rfl := sel_slot_cases fo h.1.1.2 <;>
    obtain rfl | rfl | rfl | rfl := sel_slot_cases fb h.1.2 <;>
    obtain rfl | rfl := sel_matrix_cases qk h.2 <;> rfl

theorem EncodeFitsRow.linit : EncodeFitsRow.Statement .linit := fun _ => rfl

theorem EncodeFitsRow.lopen : EncodeFitsRow.Statement .lopen := fun _ => rfl

theorem EncodeFitsRow.lstep : EncodeFitsRow.Statement .lstep := fun _ => rfl

theorem EncodeFitsRow.lrun : EncodeFitsRow.Statement .lrun := fun _ => rfl

end Sys2Proof.Laws
end

