-- ==== Sys2Proof/Tests/Slice0.lean ====
section
/-!
SUPPORT. The model's own tests: ill-formed terms refused, words written out from the spec's encodings, one or
two steps per command with the results of `95_test_vectors.md`, and for every statement with hypotheses a
concrete case that meets them.
-/

namespace Sys2Proof.Tests

-- One theorem at a time: many kernel evaluations at once would hold too many threads.
set_option Elab.async false

open Sys2Proof Sys2Proof.Machine

/-! ### Well-formedness: one ill-formed term for each check -/

theorem test_ill_formed_block_selectors_refused :
    [Instr.fdct 4 0, .fdct 0 4, .idct 4 0, .idct 0 4, .quant 4 0 0, .quant 0 4 0, .dequant 4 0 0,
      .dequant 0 4 0, .clip 4 0, .clip 0 4, .sub 4 0 0, .sub 0 4 0, .sub 0 0 4, .add 4 0 0, .add 0 4 0,
      .add 0 0 4, .bitdep 4, .ldb 4 0, .stb 0 4].all (fun i => !i.wellFormed) = true := by decide

theorem test_ill_formed_matrix_selectors_refused :
    [Instr.quant 0 0 2, .dequant 0 0 2, .qmfill 2 16, .basef 0 0 2, .enhf 0 0 0 2].all
      (fun i => !i.wellFormed) = true := by decide

theorem test_ill_formed_slot_selectors_refused :
    [Instr.ldb 0 4, .stb 4 0, .basef 4 0 0, .basef 0 4 0, .enhf 4 0 0 0, .enhf 0 4 0 0,
      .enhf 0 0 4 0].all (fun i => !i.wellFormed) = true := by decide

theorem test_well_formed_at_the_bounds :
    [Instr.nop, .clrerr, .sreset, .fdct 3 3, .idct 3 3, .quant 3 3 1, .dequant 3 3 1, .clip 3 3, .sub 3 3 3,
      .add 3 3 3, .bitdep 3, .ldb 3 3, .stb 3 3, .qmfill 1 0xFFFF, .basef 3 3 1, .enhf 3 3 3 1, .linit,
      .lopen, .lstep, .lrun].all Instr.wellFormed = true := by decide

/-! ### Decoding: the words of `30_encoding.md` R92 and `95_test_vectors.md` -/

theorem test_decode_format_z :
    decode 0b00000000_0000_0000_0000_000000000000#32 = .ok .nop ∧
    decode 0b00000001_0000_0000_0000_000000000000#32 = .ok .clrerr ∧
    decode 0b00000010_0000_0000_0000_000000000000#32 = .ok .sreset ∧
    decode 0b01000000_0000_0000_0000_000000000000#32 = .ok .linit ∧
    decode 0b01000001_0000_0000_0000_000000000000#32 = .ok .lopen ∧
    decode 0b01000010_0000_0000_0000_000000000000#32 = .ok .lstep ∧
    decode 0b01000011_0000_0000_0000_000000000000#32 = .ok .lrun := by decide

theorem test_decode_transform_unit :
    decode 0b00010000_0011_0010_0000_000000000000#32 = .ok (.fdct 3 2) ∧
    decode 0b00010001_0001_0001_0000_000000000000#32 = .ok (.idct 1 1) ∧
    decode 0b00010010_0001_0001_0000_000000000000#32 = .ok (.quant 1 1 0) ∧
    decode 0b00010011_0000_0001_0001_000000000000#32 = .ok (.dequant 0 1 1) ∧
    decode 0b00010100_0011_0011_0000_000000000000#32 = .ok (.clip 3 3) := by decide

theorem test_decode_residual :
    decode 0b00011000_0001_0010_0011_000000000000#32 = .ok (.sub 1 2 3) ∧
    decode 0b00011001_0011_0001_0010_000000000000#32 = .ok (.add 3 1 2) ∧
    decode 0b00011010_0000_0011_0000_000000000000#32 = .ok (.bitdep 3) := by decide

theorem test_decode_block_io :
    decode 0b00100000_0010_0011_0000_000000000000#32 = .ok (.ldb 2 3) ∧
    decode 0b00100001_0011_0010_0000_000000000000#32 = .ok (.stb 3 2) := by decide

theorem test_decode_config_and_frame :
    decode 0b00101000_0001_0000_1111111111111111#32 = .ok (.qmfill 1 0xFFFF) ∧
    decode 0b00110000_0010_0011_0001_000000000000#32 = .ok (.basef 2 3 1) ∧
    decode 0b00110001_0010_0000_0001_000000000001#32 = .ok (.enhf 2 0 1 1) := by decide

theorem test_illegal_words_rejected_by_name :
    decode 0x03000000#32 = .error .unassignedOpcode ∧ decode 0xFFFFFFFF#32 = .error .unassignedOpcode ∧
    decode 0x00000001#32 = .error .mustBeZero ∧ decode 0x01000001#32 = .error .mustBeZero ∧
    decode 0x02800000#32 = .error .mustBeZero ∧ decode 0x10400000#32 = .error .selectorOutOfRange ∧
    decode 0x10100001#32 = .error .mustBeZero ∧ decode 0x10101000#32 = .error .mustBeZero ∧
    decode 0x12112000#32 = .error .selectorOutOfRange ∧ decode 0x1A120000#32 = .error .mustBeZero ∧
    decode 0x20001000#32 = .error .mustBeZero ∧ decode 0x28200010#32 = .error .selectorOutOfRange ∧
    decode 0x28010010#32 = .error .mustBeZero ∧ decode 0x31201002#32 = .error .selectorOutOfRange ∧
    decode 0x31201011#32 = .error .mustBeZero ∧ decode 0x43000001#32 = .error .mustBeZero := by decide

/-- No two rows of the opcode table overlap: they differ in a bit that both mask. -/
theorem test_opcode_rows_are_disjoint :
    opcodeTable.Pairwise fun a b => a.matchWord &&& b.mask &&& a.mask ≠ b.matchWord &&& a.mask := by decide

theorem test_table_words :
    decodeTableWord 32 0x31333001 = some (.enhf 3 3 3 1) ∧ decodeTableWord 32 0x00000001 = none := by decide

theorem test_written_forms :
    Instr.written (.enhf 2 0 1 1) = "ENHF FS2, FS0, FS1, QM1" ∧ Instr.written .lrun = "LRUN" ∧
    Pseudo.expand (.tqrt 1 0 1) = [.fdct 1 0, .quant 1 1 1, .dequant 1 1 1, .idct 1 1] := by decide

/-! ### Small states and steps -/

/-- `s` with block register `k` written whole. -/
def withBlock (s : State) (k : Fin 4) (f : Nat → Word) : State :=
  { s with
    br := s.br.set k (Vector.ofFn fun e : Fin 64 => f e)
    brv := s.brv.set k (Vector.replicate 64 true) }

/-- A block whose first elements are listed and whose others are 0. -/
def listed (ws : List Word) (e : Nat) : Word := ws.getD e 0

/-- The reset state with a geometry, slot bases and an FMEM size. -/
def framed (w h : Nat) (f0 f1 f2 size : Nat) : State :=
  { State.reset with
    dim := BitVec.ofNat 16 h ++ BitVec.ofNat 16 w
    fb := #v[BitVec.ofNat 32 f0, BitVec.ofNat 32 f1, BitVec.ofNat 32 f2, 0]
    fmemLast := Fin.ofNat (2 ^ 32) (size - 1) }

/-- The outcome is a next state with a property. -/
def leads (o : Host.Outcome State Fault Refusal) (p : State → Bool) : Bool :=
  match o with
  | .next t => p t
  | .fault _ => false
  | .refused _ => false

/-- The step that takes the command word `w` leads to a state with a property. -/
def runs (w : Word) (s : State) (p : State → Bool) : Bool := leads (step (s.withPending w)) p

/-- The record a fault leaves (`95_test_vectors.md` V24). -/
def recorded (status info : Word) (t : State) : Bool :=
  t.status.word == status && t.errinfo == info && t.pend == none

/-- The first elements of block register `k`, with the command ended without a fault. -/
def holds (k : Fin 4) (ws : List Word) (t : State) : Bool :=
  t.br[k].toList.take ws.length == ws && t.brv[k] == Vector.replicate 64 true && t.status.word == 0 &&
    t.pend == none

/-! ### System and configuration commands -/

theorem test_nop_ends : runs 0x00000000#32 (framed 8 8 0 0 0 9) (fun t => t == framed 8 8 0 0 0 9) = true := by
  decide +kernel

/-- P6, steps 1 and 3. -/
theorem test_clrerr_after_uninit :
    leads (step (State.withPending State.reset 0x1A020000#32)) (fun t => recorded 0x202 0x1A020000 t &&
      runs 0x01000000#32 t (recorded 0 0)) = true := by decide +kernel

/-- P6, step 9: the SRESET word written to `CMD` while a command is pending. -/
theorem test_sreset_at_the_write :
    leads (State.hrsWrite { State.withPending (framed 8 8 0 0 0 9) 0x43000000#32 with qm := #v[Vector.replicate 64 1, Vector.replicate 64 1] }
      .word 4 0x02000000#32) (fun t => t.status.word == 0 && t.qm == State.reset.qm && t.dim == 0 &&
        t.pend == none && t.fmemSize == 9) = true := by decide +kernel

/-- V20. -/
theorem test_qmfill :
    (runs 0x28000011#32 State.reset (fun t => t.qm[0] == Vector.replicate 64 0x41880000#32 &&
      t.qm[1] == State.reset.qm[1]) && runs 0x2810FFFF#32 State.reset (fun t =>
        t.qm[1] == Vector.replicate 64 0x477FFF00#32)) = true := by decide +kernel

theorem test_qmfill_zero_faults :
    runs 0x28000000#32 State.reset (fun t => recorded 0x402 0x28000000 t && t.qm == State.reset.qm) = true := by
  decide +kernel

theorem test_illegal_word_faults :
    runs 0x12322000#32 State.reset (recorded 0x102 0x12322000) = true := by decide +kernel

/-! ### The transform: the relations of `Safety.lean` on constant blocks, then the commands -/

/-- A block with its first element only. -/
def dcBlock (y : Int) : Block := Vector.ofFn fun e : Fin 64 => if e = 0 then y else 0

/-- A block with its first column only, constant. -/
def columnBlock (t : Int) : Block := Vector.ofFn fun e : Fin 64 => if e.val % 8 = 0 then t else 0

theorem at8_replicate (a : Int) (r c : Fin 8) : at8 (Vector.replicate 64 a) r c = a := by simp [at8]

theorem at8_dcBlock (y : Int) (r c : Fin 8) : at8 (dcBlock y) r c = if r = 0 ∧ c = 0 then y else 0 := by
  simp only [at8, dcBlock, Vector.getElem_ofFn, Fin.ext_iff, Fin.val_zero]
  congr 1
  exact propext ⟨fun h => ⟨by omega, by omega⟩, fun ⟨h1, h2⟩ => by omega⟩

theorem get_dcBlock (y : Int) (e : Fin 64) : (dcBlock y)[e] = if e = 0 then y else 0 := by
  change (dcBlock y)[e.val] = _
  simp only [dcBlock, Vector.getElem_ofFn, Fin.eta]

theorem get_replicate (y : Int) (e : Fin 64) : (Vector.replicate 64 y)[e] = y := by
  change (Vector.replicate 64 y)[e.val] = y
  simp only [Vector.getElem_replicate]

theorem at8_columnBlock (t : Int) (r c : Fin 8) : at8 (columnBlock t) r c = if c = 0 then t else 0 := by
  simp only [at8, columnBlock, Vector.getElem_ofFn, Fin.ext_iff, Fin.val_zero]
  congr 1
  exact propext ⟨fun h => by omega, fun h => by omega⟩

theorem valuesOf_withBlock (s : State) (k : Fin 4) (f : Nat → Word) :
    valuesOf (withBlock s k f) k = Vector.ofFn fun e : Fin 64 => dec32 (f e) := by
  simp [valuesOf, withBlock]

theorem allValid_withBlock (s : State) (k : Fin 4) (f : Nat → Word) : AllValid (withBlock s k f) k := by
  simp [AllValid, withBlock]

theorem allFinite_withBlock (s : State) (k : Fin 4) (f : Nat → Word) (h : ∀ e : Fin 64, finite32 (f e) = true) :
    AllFinite (withBlock s k f) k := by
  simpa [AllFinite, withBlock] using h

theorem values_constant (w : Word) : (Vector.ofFn fun _ : Fin 64 => dec32 w) = Vector.replicate 64 (dec32 w) := by
  ext i hi
  simp

/-- V2. -/
theorem test_forward_of_constant_128 :
    IsForward (Vector.replicate 64 (dec32 0x43000000#32)) (dcBlock (dec32 0x447FFFFF#32)) := by
  refine ⟨columnBlock (dec32 0x43B504F3#32), ?_, ?_⟩
  · simp only [at8_replicate, at8_columnBlock]
    decide +kernel
  · simp only [at8_dcBlock, at8_columnBlock]
    decide +kernel

/-- V2b. -/
theorem test_inverse_of_dc_1024 :
    IsInverse (dcBlock (dec32 0x44800000#32)) (Vector.replicate 64 (dec32 0x42FFFFFF#32)) := by
  refine ⟨columnBlock (dec32 0x43B504F3#32), ?_, ?_⟩
  · simp only [at8_dcBlock, at8_columnBlock]
    decide +kernel
  · simp only [at8_replicate, at8_columnBlock]
    decide +kernel

/-- V4: the constant block 255 through the base path with the uniform matrix 16 gives 253.99998, stored as 254. -/
theorem test_base_block_255_by_16 :
    IsBaseBlock (Vector.replicate 64 (dec32 0x41800000#32)) (Vector.replicate 64 (dec32 0x437F0000#32))
      (Vector.replicate 64 (dec32 0x437DFFFF#32)) ∧ toU8 (dec32 0x437DFFFF#32) = 254#8 := by
  refine ⟨⟨dcBlock (dec32 0x44FEFFFF#32), dcBlock (dec32 0x42FE0000#32), dcBlock (dec32 0x44FE0000#32),
    ⟨columnBlock (dec32 0x44344FEE#32), ?_, ?_⟩, ?_, ?_, ⟨columnBlock (dec32 0x44339AE9#32), ?_, ?_⟩⟩, ?_⟩
  · simp only [at8_replicate, at8_columnBlock]
    decide +kernel
  · simp only [at8_dcBlock, at8_columnBlock]
    decide +kernel
  · intro e
    rw [get_dcBlock, get_dcBlock, get_replicate]
    by_cases h : e = 0
    · rw [if_pos h, if_pos h]
      exact ⟨dec32 0x42FEFFFF#32, by decide +kernel, by decide +kernel⟩
    · rw [if_neg h, if_neg h, zero_mul]
      exact ⟨0, fl32_zero _, by decide +kernel⟩
  · intro e
    rw [get_dcBlock, get_dcBlock, get_replicate]
    by_cases h : e = 0
    · rw [if_pos h, if_pos h]
      decide +kernel
    · rw [if_neg h, if_neg h, zero_mul, fl32_zero]
  · simp only [at8_dcBlock, at8_columnBlock]
    decide +kernel
  · simp only [at8_replicate, at8_columnBlock]
    decide +kernel
  · decide +kernel

/-- V2 as a command: FDCT of 64 times 128.0. -/
theorem test_fdct_constant_128 :
    execFdct (sel (1 : Fin 4)) (sel (0 : Fin 4)) (withBlock State.reset 0 fun _ => 0x43000000#32) =
      .next (State.complete (State.writeBlock (withBlock State.reset 0 fun _ => 0x43000000#32) 1
        (dcBlock (dec32 0x447FFFFF#32)))) := by
  have hX := State.srcBlock_values (allValid_withBlock State.reset 0 _)
    (allFinite_withBlock State.reset 0 (fun _ => 0x43000000#32) (by decide))
  rw [valuesOf_withBlock, values_constant] at hX
  refine State.conclude_eq_next.2 (.inl ⟨_, ?_, rfl⟩)
  simp only [State.unaryBlock, except_bind_ok, blockSel_sel, settled_ok, Except.ok.injEq]
  exact ⟨_, rfl, _, rfl, _, hX, _, fdct_iff_isForward.2 test_forward_of_constant_128, rfl⟩

/-- V24: 64 times infinity in the source. -/
theorem test_fdct_of_infinity_faults :
    runs 0x10100000#32 (withBlock State.reset 0 fun _ => 0x7F800000#32) (recorded 0x302 0x10100000) = true := by
  decide +kernel

/-- V2b as a command, in place. -/
theorem test_idct_dc_1024 :
    execIdct (sel (1 : Fin 4)) (sel (1 : Fin 4)) (withBlock State.reset 1 (listed [0x44800000#32])) =
      .next (State.complete (State.writeBlock (withBlock State.reset 1 (listed [0x44800000#32])) 1
        (Vector.replicate 64 (dec32 0x42FFFFFF#32)))) := by
  have hX := State.srcBlock_values (allValid_withBlock State.reset 1 _)
    (allFinite_withBlock State.reset 1 (listed [0x44800000#32]) (by decide +kernel))
  rw [valuesOf_withBlock, show (Vector.ofFn fun e : Fin 64 => dec32 (listed [0x44800000#32] e)) =
    dcBlock (dec32 0x44800000#32) by decide +kernel] at hX
  refine State.conclude_eq_next.2 (.inl ⟨_, ?_, rfl⟩)
  simp only [State.unaryBlock, except_bind_ok, blockSel_sel, settled_ok, Except.ok.injEq]
  exact ⟨_, rfl, _, rfl, _, hX, _, idct_iff_isInverse.2 test_inverse_of_dc_1024, rfl⟩

theorem test_idct_of_unwritten_faults :
    runs 0x11110000#32 State.reset (recorded 0x202 0x11110000) = true := by decide +kernel

/-- V11, the divisor 16. -/
theorem test_quant_ties_to_even :
    runs 0x12110000#32 (withBlock State.reset 1 (listed [0x41000000#32, 0x41C00000#32, 0x42200000#32,
      0xC1000000#32, 0xC1C00000#32, 0x40FFFFFF#32, 0x449A7800#32, 0x80000000#32]))
      (holds 1 [0, 0x40000000#32, 0x40000000#32, 0, 0xC0000000#32, 0, 0x429A0000#32, 0]) = true := by
  decide +kernel

/-- V24: a zero matrix entry; the block is checked before the matrix. -/
theorem test_quant_matrix_check :
    (runs 0x12110000#32 { withBlock State.reset 1 (listed []) with qm := State.reset.qm.set 0 (State.reset.qm[0].set 5 0) }
      (recorded 0x402 0x12110000) &&
    runs 0x12100000#32 { State.reset with qm := State.reset.qm.set 0 (State.reset.qm[0].set 5 0) }
      (recorded 0x202 0x12100000)) = true := by decide +kernel

/-- The DEQUANT table, the divisor 16. -/
theorem test_dequant_products :
    runs 0x13010000#32 (withBlock State.reset 1 (listed [0x42480000#32, 0xC1300000#32, 0x3E99999A#32, 0]))
      (holds 0 [0x44480000#32, 0xC3300000#32, 0x4099999A#32, 0]) = true := by decide +kernel

theorem test_dequant_overflow_faults :
    runs 0x13010000#32 (withBlock State.reset 1 (listed [0x7F000000#32])) (recorded 0x302 0x13010000) = true := by
  decide +kernel

/-- The CLIP table. -/
theorem test_clip_lanes :
    runs 0x14330000#32 (withBlock State.reset 3 (listed [0xC0600000#32, 0x437F8000#32, 0x43960000#32,
      0x42FF0000#32, 0x437F0000#32, 0x80000000#32, 0x00000001#32]))
      (holds 3 [0, 0x437F0000#32, 0x437F0000#32, 0x42FF0000#32, 0x437F0000#32, 0, 0x00000001#32]) = true := by
  decide +kernel

/-- V24: element 63 never written. -/
theorem test_clip_one_element_unwritten_faults :
    runs 0x14000000#32 { withBlock State.reset 0 (listed []) with
      brv := State.reset.brv.set 0 ((Vector.replicate 64 true).set 63 false) } (recorded 0x202 0x14000000) = true := by
  decide +kernel

/-! ### Residual arithmetic -/

/-- The SUB table; the minuend is `ra`. -/
theorem test_sub_is_signed :
    runs 0x18201000#32 (withBlock (withBlock State.reset 0 (listed [0x42C80000#32, 0x437F0000#32, 0, 0x42C80000#32]))
      1 (listed [0x42CC0000#32, 0, 0x437F0000#32, 0x42C80000#32]))
      (holds 2 [0xC0000000#32, 0x437F0000#32, 0xC37F0000#32, 0]) = true := by decide +kernel

/-- R213: `ra` is checked completely before `rb`. -/
theorem test_sub_checks_ra_first :
    runs 0x18312000#32 (withBlock State.reset 1 (listed [0x7F800000#32])) (recorded 0x302 0x18312000) = true := by
  decide +kernel

/-- The ADD table. -/
theorem test_add_rounds_and_does_not_clamp :
    runs 0x19201000#32 (withBlock (withBlock State.reset 0 (listed [0x437E0000#32, 0, 0x42CC0000#32, 0x437F0000#32]))
      1 (listed [0x3F7FFFFF#32, 0x3F7FFFFF#32, 0xC013CB3C#32, 0x41200000#32]))
      (holds 2 [0x437F0000#32, 0x3F7FFFFF#32, 0x42C761A6#32, 0x43848000#32]) = true := by decide +kernel

/-- V24: the overflow of a sum; the destination is unchanged. -/
theorem test_add_overflow_faults :
    runs 0x19201000#32 (withBlock (withBlock State.reset 0 (listed [0x7F7FFFFF#32])) 1 (listed [0x7F7FFFFF#32]))
      (fun t => recorded 0x302 0x19201000 t && t.brv[2] == Vector.replicate 64 false) = true := by decide +kernel

/-- V17: -77 gives 7; the smallest subnormal gives -148. -/
theorem test_bitdep :
    (runs 0x1A020000#32 (withBlock State.reset 2 (listed [0x40000000#32, 0xC29A0000#32])) (fun t => t.bdepth == 7) &&
    runs 0x1A020000#32 (withBlock State.reset 2 (listed [0, 1])) (fun t => t.bdepth == 0xFFFFFF6C)) = true := by
  decide +kernel

theorem test_bitdep_of_nan_faults :
    runs 0x1A000000#32 (withBlock State.reset 0 (listed [0, 0x7FC00000#32]))
      (fun t => recorded 0x302 0x1A000000 t && t.bdepth == 0) = true := by decide +kernel

/-! ### Block load and store -/

/-- V18 and V18c: element `[0][0]` from 384, `[0][7]` from 391, `[1][0]` from 400, `[7][7]` from 503. -/
theorem test_ldb_addresses :
    runs 0x20000000#32 { framed 16 16 0 0 0 768 with
      cur := 0x40010000, fmem := [(383, 0x11), (384, 0x01), (391, 0x80), (392, 0x22), (400, 0xFF), (503, 0x02), (504, 0x33)] }
      (fun t => t.br[0] == (((Vector.replicate 64 0#32).set 0 0x3F800000).set 7 0x43000000 |>.set 8 0x437F0000
        |>.set 63 0x40000000)) = true := by decide +kernel

/-- V24 and its priority table: channel 3; channel 3 with a slot that does not fit. -/
theorem test_ldb_geometry_faults :
    (runs 0x20000000#32 { framed 16 16 0 0 0 768 with cur := 0xC0000000 } (recorded 0x502 0x20000000) &&
    runs 0x20000000#32 { framed 16 16 768 768 0 768 with cur := 0xC0000000 } (recorded 0x502 0x20000000) &&
    runs 0x20000000#32 (framed 16 16 1 0 0 768) (recorded 0x602 0x20000000)) = true := by decide +kernel

/-- V19: clamped, then rounded to nearest even; only the 64 bytes of the block are written. -/
theorem test_stb_rounds_and_clamps :
    runs 0x21000000#32 { withBlock (framed 8 8 1 0 0 193) 0 (listed [0xC0600000#32, 0x43960000#32, 0x3F000000#32,
      0x3FC00000#32, 0x42FD0000#32, 0x42FF0000#32, 0x437E8000#32, 0x42FFFFFF#32]) with fmem := [(0, 7), (64, 9), (65, 8)] }
      (fun t => t.fmem == [(0, 7), (2, 255), (4, 2), (5, 126), (6, 128), (7, 254), (8, 128), (65, 8)]) = true := by
  decide +kernel

/-- The priority table: `E_UNINIT` before `E_GEOM`. -/
theorem test_stb_priority :
    runs 0x21010000#32 State.reset (recorded 0x202 0x21010000) = true := by decide +kernel

/-! ### Frame commands -/

/-- R151: a frame of one sample has only edge samples; they are copied and `EDGE` is set. -/
theorem test_basef_edge_only :
    runs 0x30100000#32 { framed 1 1 0 3 6 9 with fmem := [(0, 0x64), (1, 0xFF), (2, 0x01), (3, 0x77), (6, 5)] }
      (fun t => t.fmem == [(0, 0x64), (1, 0xFF), (2, 0x01), (3, 0x64), (4, 0xFF), (5, 0x01), (6, 5)] &&
        t.status.word == 4) = true := by decide +kernel

/-- V24 and its priority table: partial overlap; zero width; a bad matrix before a zero width. -/
theorem test_basef_faults :
    (runs 0x30100000#32 (framed 16 16 0 100 0 4096) (recorded 0x602 0x30100000) &&
    runs 0x30100000#32 (framed 0 16 0 0 0 4096) (recorded 0x502 0x30100000) &&
    runs 0x30100000#32 { framed 0 0 0 0 0 1 with qm := State.reset.qm.set 0 (State.reset.qm[0].set 0 0) }
      (recorded 0x402 0x30100000)) = true := by decide +kernel

/-- R171: the edge samples of the enhanced frame are the original's; `BDEPTH` is kept without a full block. -/
theorem test_enhf_edge_only :
    runs 0x31201001#32 { framed 1 1 0 3 6 9 with bdepth := 5, fmem := [(0, 0x64), (3, 0x32)] }
      (fun t => t.fmem == [(0, 0x64), (3, 0x32), (6, 0x64)] && t.status.word == 4 && t.bdepth == 5) = true := by
  decide +kernel

/-- V24: a negative matrix entry; then a source that partly overlaps the destination. -/
theorem test_enhf_faults :
    (runs 0x31201001#32 { framed 8 8 0 192 384 576 with qm := State.reset.qm.set 1 (State.reset.qm[1].set 0 0xC1800000#32) }
      (recorded 0x402 0x31201001) &&
    runs 0x31201001#32 (framed 8 8 0 193 384 9999) (recorded 0x602 0x31201001)) = true := by decide +kernel

/-! ### The combiner -/

/-- An input port with some frames. -/
def input (frames : List FrameToken) (pos : Nat) : InPort := ⟨true, ⟨16, 16, 0x1E⟩, frames, pos, true⟩

/-- A run in `Streaming`, on a platform whose FMEM is known. -/
def streaming (a b : InPort) : State :=
  { framed 0 0 0 0 0 9 with lstat := { Lstat.reset with state := .streaming }, ina := a, inb := b }

/-- The example of R185. -/
theorem test_linit_clears :
    runs 0x40000000#32 { State.reset with lstat := ⟨.closed, false, false, true, false, false⟩, lcount := 3, inaFps := 9 }
      (fun t => t.lstat.word == 0 && t.lcount == 0 && t.inaFps == 0 && t.status.word == 0) = true := by decide +kernel

theorem test_linit_while_streaming_faults :
    runs 0x40000000#32 (streaming (input [] 0) (input [] 0)) (recorded 0x702 0x40000000) = true := by decide +kernel

/-- The example of R186: `INB` not present. -/
theorem test_lopen_open_error :
    runs 0x41000000#32 { State.reset with ina := input [] 0 } (fun t => t.lstat.word == 1 && t.status.word == 1 &&
      leads (step t) (fun u => u.lstat.word == 0x214 && u.inaDim == 0x00100010 && u.inaFps == 0x1E && u.inbDim == 0 &&
        u.status.word == 0 && u.outl == OutPort.detached)) = true := by decide +kernel

/-- V24: LOPEN in `Closed`. -/
theorem test_lopen_in_closed_faults :
    runs 0x41000000#32 { State.reset with lstat := ⟨.closed, false, true, false, false, false⟩ }
      (recorded 0x702 0x41000000) = true := by decide +kernel

/-- The example of R190: the second LSTEP reads a Frame of A and `EOS` of B. -/
theorem test_lstep_pair_then_end :
    runs 0x42000000#32 (streaming (input [[1], [2]] 0) (input [[3]] 0)) (fun t => t.lcount == 1 && t.lstat.word == 2 &&
      t.outl.frames == [[1]] && t.outh.frames == [[3]] && t.outf.frames == [[3]] && t.status.word == 0 &&
      runs 0x42000000#32 { t with ina := { t.ina with ready := true }, inb := { t.inb with ready := true } }
        (fun u => u.lstat.word == 0x44 && u.lcount == 1 && u.outl.frames == [[1]] && u.ina.pos == 2)) = true := by
  decide +kernel

theorem test_lstep_holds :
    runs 0x42000000#32 (streaming (input [[1]] 0) { input [[3]] 0 with ready := false })
      (fun t => t == State.withPending (streaming (input [[1]] 0) { input [[3]] 0 with ready := false }) 0x42000000#32) = true := by
  decide +kernel

/-- R197: 0 frames against 4. -/
theorem test_lrun_of_an_empty_stream :
    runs 0x43000000#32 (streaming (input [] 0) (input [[1], [2], [3], [4]] 0)) (fun t => t.lstat.word == 0x24 &&
      t.lcount == 0 && t.outl.frames == [] && t.ina.pos == 1 && t.inb.pos == 1 && t.status.word == 0) = true := by
  decide +kernel

/-- V24: LRUN in `Idle`. -/
theorem test_lrun_in_idle_faults : runs 0x43000000#32 State.reset (recorded 0x702 0x43000000) = true := by
  decide +kernel

/-! ### The host's side -/

/-- V25: the write of `DIM` and the second command are lost while LRUN holds. -/
theorem test_busy_writes_are_lost :
    (let s := State.withPending (streaming (input [] 0) { input [] 0 with ready := false }) 0x43000000#32
    leads (s.hrsWrite .word 0x010 0x00100010#32) (fun t => t.dim == 0 && t.status.word == 9 &&
      leads (t.hrsWrite .word 0x004 0) (fun u => u == t))) = true := by decide +kernel

/-- V25: after a fault a command is discarded without trace. -/
theorem test_fault_lock :
    leads (step (State.withPending (framed 0 0 0 0 0 9) 0x10100000#32)) (fun t =>
      leads (t.hrsWrite .word 0x004 0x28000001#32) (fun u => u == t) &&
      leads (t.hrsWrite .word 0x004 0x01000001#32) (fun u => u == t)) = true := by decide +kernel

theorem test_fetch_word_decodes_and_runs :
    leads (step (State.withFetchWord State.reset 32 0x28000010)) (fun t => t.status.word == 0 && t.pend == none) = true := by
  decide +kernel

/-! ### Witnesses: for each statement with hypotheses, cases that meet them, clause by clause -/

theorem witness_DecodeOfEncode : Instr.wellFormed (.enhf 3 3 3 1) = true := by decide

theorem witness_EncodeOfDecode : decode 0x31333001#32 = .ok (.enhf 3 3 3 1) := by decide

theorem witness_StepRunsPendingCommand :
    (State.withPending State.reset 0x43000000#32).pend = some 0x43000000#32 ∧
    decode 0x43000000#32 = .ok .lrun ∧ (State.withPending State.reset 0x43000000#32).agenda = [] ∧
    ({ State.withPending State.reset 0x43000000#32 with agenda := [.unit] }).agenda = .unit :: [] ∧
    ((State.withPending State.reset 0x44000000#32).pend = some 0x44000000#32 ∧
      ∀ row ∈ opcodeTable, 0x44000000#32 &&& row.mask ≠ row.matchWord) ∧ State.reset.pend = none := by decide

theorem witness_IllegalWordFaults :
    (State.withPending State.reset 0x03000000#32).pend = some 0x03000000#32 ∧
    ∀ row ∈ opcodeTable, 0x03000000#32 &&& row.mask ≠ row.matchWord := by decide

theorem witness_FaultEntryRecord :
    (State.withPending State.reset 0x10100000#32).pend = some 0x10100000#32 ∧
    (FaultCode.state, 0x07#8) ∈ [(FaultCode.illegal, 0x01#8), (.uninit, 0x02#8), (.num, 0x03#8), (.qm, 0x04#8),
      (.geom, 0x05#8), (.fmem, 0x06#8), (.state, 0x07#8)] := by decide

theorem witness_ResetInputLeavesResetValues :
    ({ framed 1 1 0 0 0 4 with agenda := [.resetInput [(0, 5), (1, 6), (2, 7), (3, 8)]] }).agenda =
      .resetInput [(0, 5), (1, 6), (2, 7), (3, 8)] :: [] ∧
    [(0, 5#8), (1, 6#8), (2, 7#8), (3, 8#8)] =
      (List.range (framed 1 1 0 0 0 4).fmemSize).map (fun a => (a, BitVec.ofNat 8 (a + 5))) := by decide

theorem witness_QmfillOutcome :
    ¬ (2#4 : Sel).toNat < 2 ∧ (0#16 : BitVec 16) = 0 ∧ (1#16 : BitVec 16) ≠ 0 ∧ (0xFFFF#16 : BitVec 16) ≠ 0 := by
  decide

/-- The reset state with block register 0 all one word. -/
def constant (w : Word) : State := withBlock State.reset 0 fun _ => w

theorem constant_values (w : Word) : valuesOf (constant w) 0 = Vector.replicate 64 (dec32 w) := by
  rw [constant, valuesOf_withBlock, values_constant]

theorem constant_ready (w : Word) (h : finite32 w = true) : AllValid (constant w) 0 ∧ AllFinite (constant w) 0 :=
  ⟨allValid_withBlock _ _ _, allFinite_withBlock _ _ _ fun _ => h⟩

/-- A register with one element not written, the last. -/
def unwritten63 : State :=
  { constant 0 with brv := State.reset.brv.set 0 ((Vector.replicate 64 true).set 63 false) }

theorem unwritten63_not_valid : ¬ AllValid unwritten63 0 := fun h => by
  have := h 63
  revert this
  decide +kernel

/-- A register with one element not finite, the last. -/
def infinite63 (k : Fin 4) : State := withBlock (constant 0) k fun e => if e = 63 then 0x7F800000#32 else 0

theorem infinite63_not_finite (k : Fin 4) : AllValid (infinite63 k) k ∧ ¬ AllFinite (infinite63 k) k :=
  ⟨allValid_withBlock _ _ _, fun h => by
    have := h 63
    simp [infinite63, withBlock] at this
    exact absurd this (by decide)⟩

theorem zero_block_forward : IsForward (Vector.replicate 64 0) (Vector.replicate 64 0) :=
  ⟨Vector.replicate 64 0, by simp only [at8_replicate, mul_zero, Finset.sum_const_zero, fl32_zero]; simp,
    by simp only [at8_replicate, mul_zero, Finset.sum_const_zero, fl32_zero]; simp⟩

theorem zero_block_inverse : IsInverse (Vector.replicate 64 0) (Vector.replicate 64 0) :=
  ⟨Vector.replicate 64 0, by simp only [at8_replicate, mul_zero, Finset.sum_const_zero, fl32_zero]; simp,
    by simp only [at8_replicate, mul_zero, Finset.sum_const_zero, fl32_zero]; simp⟩

theorem zero_block_quant (M : Block) : IsQuant (Vector.replicate 64 0) M (Vector.replicate 64 0) := fun e => by
  rw [get_replicate, zero_mul]
  exact ⟨0, fl32_zero _, by decide +kernel⟩

theorem zero_block_dequant (M : Block) : IsDequant (Vector.replicate 64 0) M (Vector.replicate 64 0) := fun e => by
  rw [get_replicate, zero_mul, fl32_zero]

/-- An illegal selector at its bound; an element not written; an element not finite; an overflow; a result. -/
theorem witness_FdctOutcome :
    (¬ ((4#4 : Sel).toNat < 4 ∧ (3#4 : Sel).toNat < 4) ∧ ¬ ((3#4 : Sel).toNat < 4 ∧ (4#4 : Sel).toNat < 4)) ∧
    ¬ AllValid unwritten63 0 ∧ (AllValid (infinite63 0) 0 ∧ ¬ AllFinite (infinite63 0) 0) ∧
    ((AllValid (constant 0x7F000000#32) 0 ∧ AllFinite (constant 0x7F000000#32) 0) ∧
      ¬ ∃ Y, IsForward (valuesOf (constant 0x7F000000#32) 0) Y) ∧
    ((AllValid (constant 0x43000000#32) 0 ∧ AllFinite (constant 0x43000000#32) 0) ∧
      IsForward (valuesOf (constant 0x43000000#32) 0) (dcBlock (dec32 0x447FFFFF#32))) := by
  refine ⟨by decide, unwritten63_not_valid, infinite63_not_finite 0, ⟨constant_ready _ (by decide), ?_⟩,
    constant_ready _ (by decide), ?_⟩
  · rw [constant_values]
    rintro ⟨Y, T, h, -⟩
    have := h 0 0
    simp only [at8_replicate] at this
    rw [show fl32 (∑ n : Fin 8, coef 0 n * dec32 0x7F000000#32) (2 ^ 149) = none by decide +kernel] at this
    cases this
  · rw [constant_values]
    exact test_forward_of_constant_128

theorem witness_IdctOutcome :
    (¬ ((4#4 : Sel).toNat < 4 ∧ (3#4 : Sel).toNat < 4) ∧ ¬ ((3#4 : Sel).toNat < 4 ∧ (4#4 : Sel).toNat < 4)) ∧
    ¬ AllValid unwritten63 0 ∧ (AllValid (infinite63 0) 0 ∧ ¬ AllFinite (infinite63 0) 0) ∧
    ((AllValid (constant 0x7F000000#32) 0 ∧ AllFinite (constant 0x7F000000#32) 0) ∧
      ¬ ∃ X, IsInverse (valuesOf (constant 0x7F000000#32) 0) X) ∧
    ((AllValid (constant 0) 0 ∧ AllFinite (constant 0) 0) ∧
      IsInverse (valuesOf (constant 0) 0) (Vector.replicate 64 0)) := by
  refine ⟨by decide, unwritten63_not_valid, infinite63_not_finite 0, ⟨constant_ready _ (by decide), ?_⟩,
    constant_ready _ (by decide), ?_⟩
  · rw [constant_values]
    rintro ⟨Y, T, h, -⟩
    have := h 0 0
    simp only [at8_replicate] at this
    rw [show fl32 (∑ n : Fin 8, coef n 0 * dec32 0x7F000000#32) (2 ^ 149) = none by decide +kernel] at this
    cases this
  · rw [constant_values]
    exact zero_block_inverse

/-- `s` with matrix register 0 all one word. -/
def withMatrix (s : State) (w : Word) : State := { s with qm := s.qm.set 0 (Vector.replicate 64 w) }

theorem reset_matrices_ready : ∀ q : Fin 2, MatrixReady State.reset q := by
  intro q e
  revert q e
  decide +kernel

theorem withMatrix_ready (s : State) (w : Word) (h : finite32 w = true) (h2 : 0 < dec32 w) :
    MatrixReady (withMatrix s w) 0 := by
  intro e
  simp [withMatrix, h, h2]

theorem withMatrix_entries (s : State) (w : Word) : entriesOf (withMatrix s w) 0 = Vector.replicate 64 (dec32 w) := by
  ext i hi
  simp [entriesOf, withMatrix]

/-- The last matrix entry is zero. -/
def zeroEntry63 : State := { constant 0 with qm := State.reset.qm.set 0 (State.reset.qm[0].set 63 0) }

theorem zeroEntry63_not_ready : ¬ MatrixReady zeroEntry63 0 := fun h => by
  have := h 63
  revert this
  decide +kernel

theorem witness_QuantOutcome :
    (¬ ((4#4 : Sel).toNat < 4 ∧ (3#4 : Sel).toNat < 4 ∧ (1#4 : Sel).toNat < 2) ∧
      ¬ ((3#4 : Sel).toNat < 4 ∧ (4#4 : Sel).toNat < 4 ∧ (1#4 : Sel).toNat < 2) ∧
      ¬ ((3#4 : Sel).toNat < 4 ∧ (3#4 : Sel).toNat < 4 ∧ (2#4 : Sel).toNat < 2)) ∧
    ¬ AllValid unwritten63 0 ∧ (AllValid (infinite63 0) 0 ∧ ¬ AllFinite (infinite63 0) 0) ∧
    (AllValid zeroEntry63 0 ∧ AllFinite zeroEntry63 0 ∧ ¬ MatrixReady zeroEntry63 0) ∧
    (AllValid (withMatrix (constant 0x44FF0000#32) 0x00800000#32) 0 ∧
      AllFinite (withMatrix (constant 0x44FF0000#32) 0x00800000#32) 0 ∧
      MatrixReady (withMatrix (constant 0x44FF0000#32) 0x00800000#32) 0 ∧
      ¬ ∃ Y, IsQuant (valuesOf (withMatrix (constant 0x44FF0000#32) 0x00800000#32) 0)
        (entriesOf (withMatrix (constant 0x44FF0000#32) 0x00800000#32) 0) Y) ∧
    (AllValid (constant 0) 0 ∧ AllFinite (constant 0) 0 ∧ MatrixReady (constant 0) 0 ∧
      IsQuant (valuesOf (constant 0) 0) (entriesOf (constant 0) 0) (Vector.replicate 64 0)) := by
  refine ⟨by decide, unwritten63_not_valid, infinite63_not_finite 0,
    ⟨(constant_ready 0 (by decide)).1, (constant_ready 0 (by decide)).2, zeroEntry63_not_ready⟩,
    ⟨(constant_ready 0x44FF0000#32 (by decide)).1, (constant_ready 0x44FF0000#32 (by decide)).2,
      withMatrix_ready _ _ (by decide) (by decide +kernel), ?_⟩,
    (constant_ready 0 (by decide)).1, (constant_ready 0 (by decide)).2, reset_matrices_ready 0, ?_⟩
  · rintro ⟨Y, h⟩
    obtain ⟨t, ht, -⟩ := h 0
    rw [withMatrix_entries, get_replicate, show valuesOf (withMatrix (constant 0x44FF0000#32) 0x00800000#32) 0 =
      Vector.replicate 64 (dec32 0x44FF0000#32) from constant_values _, get_replicate,
      show fl32 (dec32 0x44FF0000#32 * 2 ^ 149) (dec32 0x00800000#32).toNat = none by decide +kernel] at ht
    cases ht
  · rw [constant_values]
    exact zero_block_quant _

theorem witness_DequantOutcome :
    (¬ ((4#4 : Sel).toNat < 4 ∧ (3#4 : Sel).toNat < 4 ∧ (1#4 : Sel).toNat < 2) ∧
      ¬ ((3#4 : Sel).toNat < 4 ∧ (4#4 : Sel).toNat < 4 ∧ (1#4 : Sel).toNat < 2) ∧
      ¬ ((3#4 : Sel).toNat < 4 ∧ (3#4 : Sel).toNat < 4 ∧ (2#4 : Sel).toNat < 2)) ∧
    ¬ AllValid unwritten63 0 ∧ (AllValid (infinite63 0) 0 ∧ ¬ AllFinite (infinite63 0) 0) ∧
    (AllValid zeroEntry63 0 ∧ AllFinite zeroEntry63 0 ∧ ¬ MatrixReady zeroEntry63 0) ∧
    (AllValid (withMatrix (constant 0x7F000000#32) 0x40000000#32) 0 ∧
      AllFinite (withMatrix (constant 0x7F000000#32) 0x40000000#32) 0 ∧
      MatrixReady (withMatrix (constant 0x7F000000#32) 0x40000000#32) 0 ∧
      ¬ ∃ Y, IsDequant (valuesOf (withMatrix (constant 0x7F000000#32) 0x40000000#32) 0)
        (entriesOf (withMatrix (constant 0x7F000000#32) 0x40000000#32) 0) Y) ∧
    (AllValid (constant 0) 0 ∧ AllFinite (constant 0) 0 ∧ MatrixReady (constant 0) 0 ∧
      IsDequant (valuesOf (constant 0) 0) (entriesOf (constant 0) 0) (Vector.replicate 64 0)) := by
  refine ⟨by decide, unwritten63_not_valid, infinite63_not_finite 0,
    ⟨(constant_ready 0 (by decide)).1, (constant_ready 0 (by decide)).2, zeroEntry63_not_ready⟩,
    ⟨(constant_ready 0x7F000000#32 (by decide)).1, (constant_ready 0x7F000000#32 (by decide)).2,
      withMatrix_ready _ _ (by decide) (by decide +kernel), ?_⟩,
    (constant_ready 0 (by decide)).1, (constant_ready 0 (by decide)).2, reset_matrices_ready 0, ?_⟩
  · rintro ⟨Y, h⟩
    have ht := h 0
    rw [withMatrix_entries, get_replicate, show valuesOf (withMatrix (constant 0x7F000000#32) 0x40000000#32) 0 =
      Vector.replicate 64 (dec32 0x7F000000#32) from constant_values _, get_replicate,
      show fl32 (dec32 0x7F000000#32 * dec32 0x40000000#32) (2 ^ 149) = none by decide +kernel] at ht
    cases ht
  · rw [constant_values]
    exact zero_block_dequant _

theorem witness_ClipOutcome :
    (¬ ((4#4 : Sel).toNat < 4 ∧ (3#4 : Sel).toNat < 4) ∧ ¬ ((3#4 : Sel).toNat < 4 ∧ (4#4 : Sel).toNat < 4)) ∧
    ¬ AllValid unwritten63 0 ∧ (AllValid (infinite63 0) 0 ∧ ¬ AllFinite (infinite63 0) 0) ∧
    (AllValid (constant 0x437F8000#32) 0 ∧ AllFinite (constant 0x437F8000#32) 0) :=
  ⟨by decide, unwritten63_not_valid, infinite63_not_finite 0, constant_ready _ (by decide)⟩

theorem infinite63_first : AllValid (infinite63 1) 0 ∧ AllFinite (infinite63 1) 0 := by
  constructor
  · simp [AllValid, infinite63, constant, withBlock]
  · simp [AllFinite, infinite63, constant, withBlock]
    decide

/-- Two registers, each all one word. -/
def constants (a b : Word) : State := withBlock (constant a) 1 fun _ => b

theorem constants_ready (a b : Word) (ha : finite32 a = true) (hb : finite32 b = true) :
    (AllValid (constants a b) 0 ∧ AllFinite (constants a b) 0) ∧
      AllValid (constants a b) 1 ∧ AllFinite (constants a b) 1 := by
  refine ⟨⟨?_, ?_⟩, allValid_withBlock _ _ _, allFinite_withBlock _ _ _ fun _ => hb⟩
  · simp [AllValid, constants, constant, withBlock]
  · simp [AllFinite, constants, constant, withBlock, ha]

theorem constants_values (a b : Word) : valuesOf (constants a b) 0 = Vector.replicate 64 (dec32 a) ∧
    valuesOf (constants a b) 1 = Vector.replicate 64 (dec32 b) := by
  constructor <;> ext i hi <;> simp [valuesOf, constants, constant, withBlock]

theorem constant_one_unwritten : ¬ AllValid (constant 0) 1 := fun h => by
  have := h 0
  revert this
  decide +kernel

/-- The two-source commands: as above, and then the second register not written or not finite. -/
theorem witness_SubOutcome :
    (¬ ((4#4 : Sel).toNat < 4 ∧ (3#4 : Sel).toNat < 4 ∧ (3#4 : Sel).toNat < 4) ∧
      ¬ ((3#4 : Sel).toNat < 4 ∧ (4#4 : Sel).toNat < 4 ∧ (3#4 : Sel).toNat < 4) ∧
      ¬ ((3#4 : Sel).toNat < 4 ∧ (3#4 : Sel).toNat < 4 ∧ (4#4 : Sel).toNat < 4)) ∧
    ¬ AllValid unwritten63 0 ∧ (AllValid (infinite63 0) 0 ∧ ¬ AllFinite (infinite63 0) 0) ∧
    (AllValid (constant 0) 0 ∧ AllFinite (constant 0) 0 ∧ ¬ AllValid (constant 0) 1) ∧
    (AllValid (infinite63 1) 0 ∧ AllFinite (infinite63 1) 0 ∧ AllValid (infinite63 1) 1 ∧
      ¬ AllFinite (infinite63 1) 1) ∧
    (((AllValid (constants 0x7F7FFFFF#32 0xFF7FFFFF#32) 0 ∧ AllFinite (constants 0x7F7FFFFF#32 0xFF7FFFFF#32) 0) ∧
      AllValid (constants 0x7F7FFFFF#32 0xFF7FFFFF#32) 1 ∧ AllFinite (constants 0x7F7FFFFF#32 0xFF7FFFFF#32) 1) ∧
      ¬ ∃ Y, IsDifference (valuesOf (constants 0x7F7FFFFF#32 0xFF7FFFFF#32) 0)
        (valuesOf (constants 0x7F7FFFFF#32 0xFF7FFFFF#32) 1) Y) ∧
    (((AllValid (constants 0x42C80000#32 0x42CC0000#32) 0 ∧ AllFinite (constants 0x42C80000#32 0x42CC0000#32) 0) ∧
      AllValid (constants 0x42C80000#32 0x42CC0000#32) 1 ∧ AllFinite (constants 0x42C80000#32 0x42CC0000#32) 1) ∧
      IsDifference (valuesOf (constants 0x42C80000#32 0x42CC0000#32) 0)
        (valuesOf (constants 0x42C80000#32 0x42CC0000#32) 1) (Vector.replicate 64 (dec32 0xC0000000#32))) := by
  refine ⟨by decide, unwritten63_not_valid, infinite63_not_finite 0,
    ⟨(constant_ready _ (by decide)).1, (constant_ready _ (by decide)).2, constant_one_unwritten⟩,
    ⟨infinite63_first.1, infinite63_first.2, infinite63_not_finite 1⟩,
    ⟨constants_ready _ _ (by decide) (by decide), ?_⟩, constants_ready _ _ (by decide) (by decide), ?_⟩
  · rintro ⟨Y, h⟩
    have ht := h 0
    rw [(constants_values _ _).1, (constants_values _ _).2, get_replicate, get_replicate,
      show fl32 (dec32 0x7F7FFFFF#32 - dec32 0xFF7FFFFF#32) 1 = none by decide +kernel] at ht
    cases ht
  · intro e
    rw [(constants_values _ _).1, (constants_values _ _).2, get_replicate, get_replicate, get_replicate]
    decide +kernel

theorem witness_AddOutcome :
    (¬ ((4#4 : Sel).toNat < 4 ∧ (3#4 : Sel).toNat < 4 ∧ (3#4 : Sel).toNat < 4) ∧
      ¬ ((3#4 : Sel).toNat < 4 ∧ (4#4 : Sel).toNat < 4 ∧ (3#4 : Sel).toNat < 4) ∧
      ¬ ((3#4 : Sel).toNat < 4 ∧ (3#4 : Sel).toNat < 4 ∧ (4#4 : Sel).toNat < 4)) ∧
    ¬ AllValid unwritten63 0 ∧ (AllValid (infinite63 0) 0 ∧ ¬ AllFinite (infinite63 0) 0) ∧
    (AllValid (constant 0) 0 ∧ AllFinite (constant 0) 0 ∧ ¬ AllValid (constant 0) 1) ∧
    (AllValid (infinite63 1) 0 ∧ AllFinite (infinite63 1) 0 ∧ AllValid (infinite63 1) 1 ∧
      ¬ AllFinite (infinite63 1) 1) ∧
    (((AllValid (constants 0x7F7FFFFF#32 0x7F7FFFFF#32) 0 ∧ AllFinite (constants 0x7F7FFFFF#32 0x7F7FFFFF#32) 0) ∧
      AllValid (constants 0x7F7FFFFF#32 0x7F7FFFFF#32) 1 ∧ AllFinite (constants 0x7F7FFFFF#32 0x7F7FFFFF#32) 1) ∧
      ¬ ∃ Y, IsSum (valuesOf (constants 0x7F7FFFFF#32 0x7F7FFFFF#32) 0)
        (valuesOf (constants 0x7F7FFFFF#32 0x7F7FFFFF#32) 1) Y) ∧
    (((AllValid (constants 0x437E0000#32 0x3F7FFFFF#32) 0 ∧ AllFinite (constants 0x437E0000#32 0x3F7FFFFF#32) 0) ∧
      AllValid (constants 0x437E0000#32 0x3F7FFFFF#32) 1 ∧ AllFinite (constants 0x437E0000#32 0x3F7FFFFF#32) 1) ∧
      IsSum (valuesOf (constants 0x437E0000#32 0x3F7FFFFF#32) 0)
        (valuesOf (constants 0x437E0000#32 0x3F7FFFFF#32) 1) (Vector.replicate 64 (dec32 0x437F0000#32))) := by
  refine ⟨by decide, unwritten63_not_valid, infinite63_not_finite 0,
    ⟨(constant_ready _ (by decide)).1, (constant_ready _ (by decide)).2, constant_one_unwritten⟩,
    ⟨infinite63_first.1, infinite63_first.2, infinite63_not_finite 1⟩,
    ⟨constants_ready _ _ (by decide) (by decide), ?_⟩, constants_ready _ _ (by decide) (by decide), ?_⟩
  · rintro ⟨Y, h⟩
    have ht := h 0
    rw [(constants_values _ _).1, (constants_values _ _).2, get_replicate,
      show fl32 (dec32 0x7F7FFFFF#32 + dec32 0x7F7FFFFF#32) 1 = none by decide +kernel] at ht
    cases ht
  · intro e
    rw [(constants_values _ _).1, (constants_values _ _).2, get_replicate, get_replicate, get_replicate]
    decide +kernel

theorem witness_BitdepOutcome :
    ¬ (4#4 : Sel).toNat < 4 ∧ ¬ AllValid unwritten63 0 ∧
    (AllValid (infinite63 0) 0 ∧ ¬ AllFinite (infinite63 0) 0) ∧ (AllValid (constant 1) 0 ∧ AllFinite (constant 1) 0) :=
  ⟨by decide, unwritten63_not_valid, infinite63_not_finite 0, constant_ready _ (by decide)⟩

theorem witness_BitdepthCountsTheLargestMagnitude :
    (∀ e : Fin 64, (Vector.replicate 64 (0 : Int))[e] = 0) ∧
    (∃ e : Fin 64, (Vector.replicate 64 (1 : Int))[e] ≠ 0) ∧
    ∀ e : Fin 64, inF32 (Vector.replicate 64 ((2 : Int) ^ 277 - 2 ^ 253))[e] = true :=
  ⟨fun e => get_replicate 0 e, ⟨0, by rw [get_replicate]; decide⟩, fun e => by rw [get_replicate]; decide +kernel⟩

theorem witness_EffectiveAddress : (63 : Fin 64).val = 8 * (7 : Fin 8).val + (7 : Fin 8).val := by decide

/-- `s` with the cursor at a value. -/
def cursorAt (s : State) (cur : Word) : State := { s with cur := cur }

/-- The cursor's block one column out; the slot one byte too long; both exactly right. -/
theorem witness_LdbOutcome :
    (¬ ((4#4 : Sel).toNat < 4 ∧ (3#4 : Sel).toNat < 4) ∧ ¬ ((3#4 : Sel).toNat < 4 ∧ (4#4 : Sel).toNat < 4)) ∧
    (¬ CursorOnBlock (framed 7 8 0 0 0 999) ∧ ¬ CursorOnBlock (framed 8 7 0 0 0 999) ∧
      ¬ CursorOnBlock (framed 0 8 0 0 0 999) ∧ ¬ CursorOnBlock (framed 8 0 0 0 0 999) ∧
      ¬ CursorOnBlock (cursorAt (framed 8 8 0 0 0 999) 0xC0000000#32)) ∧
    (CursorOnBlock (framed 8 8 0 0 0 191) ∧ ¬ SlotFits (framed 8 8 0 0 0 191) 0) ∧
    (CursorOnBlock (framed 8 8 0 0 0 192) ∧ SlotFits (framed 8 8 0 0 0 192) 0) := by
  unfold CursorOnBlock SlotFits
  decide +kernel

theorem witness_StbOutcome :
    (¬ ((4#4 : Sel).toNat < 4 ∧ (3#4 : Sel).toNat < 4) ∧ ¬ ((3#4 : Sel).toNat < 4 ∧ (4#4 : Sel).toNat < 4)) ∧
    ¬ AllValid unwritten63 0 ∧ (AllValid (infinite63 0) 0 ∧ ¬ AllFinite (infinite63 0) 0) ∧
    (AllValid (constant 0) 0 ∧ AllFinite (constant 0) 0 ∧ ¬ CursorOnBlock (constant 0)) ∧
    (AllValid (withBlock (framed 8 8 0 0 0 191) 0 fun _ => 0) 0 ∧
      AllFinite (withBlock (framed 8 8 0 0 0 191) 0 fun _ => 0) 0 ∧
      CursorOnBlock (withBlock (framed 8 8 0 0 0 191) 0 fun _ => 0) ∧
      ¬ SlotFits (withBlock (framed 8 8 0 0 0 191) 0 fun _ => 0) 0) ∧
    (AllValid (withBlock (framed 8 8 0 0 0 192) 0 fun _ => 0) 0 ∧
      AllFinite (withBlock (framed 8 8 0 0 0 192) 0 fun _ => 0) 0 ∧
      CursorOnBlock (withBlock (framed 8 8 0 0 0 192) 0 fun _ => 0) ∧
      SlotFits (withBlock (framed 8 8 0 0 0 192) 0 fun _ => 0) 0 ∧
      Memory.wf (withBlock (framed 8 8 0 0 0 192) 0 fun _ => 0).fmem = true ∧
      ∀ e : Fin 64, 192 ≠ State.ea (withBlock (framed 8 8 0 0 0 192) 0 fun _ => 0) 0 0 0 0 e) := by
  refine ⟨by decide, unwritten63_not_valid, infinite63_not_finite 0,
    ⟨(constant_ready _ (by decide)).1, (constant_ready _ (by decide)).2, ?_⟩,
    ⟨allValid_withBlock _ _ _, allFinite_withBlock _ _ _ (by decide), ?_, ?_⟩,
    allValid_withBlock _ _ _, allFinite_withBlock _ _ _ (by decide), ?_, ?_, rfl, ?_⟩ <;>
    first
    | (unfold CursorOnBlock; decide +kernel)
    | (unfold SlotFits; decide +kernel)
    | decide +kernel

/-- 9 by 8 samples: one full block and one edge column in each channel; three slots side by side. -/
def edged9 : State := framed 9 8 0 216 432 648

theorem edged9_ready (q : Fin 2) : MatrixReady edged9 q := reset_matrices_ready q

theorem edged9_frameOk : FrameOk edged9 1 [0] ∧ FrameOk edged9 2 [0, 1] := by
  unfold FrameOk SlotFits Compatible
  decide +kernel

theorem edged9_samples (k : Fin 4) (ch row col : Nat) : samplesAt edged9 k ch row col = Vector.replicate 64 0 := by
  ext i hi
  have h : edged9.fmem = [] := rfl
  simp [samplesAt, h, Memory.read_nil, Config.fmemUnwritten]

theorem zero_base_block (M : Block) : IsBaseBlock M (Vector.replicate 64 0) (Vector.replicate 64 0) :=
  ⟨_, _, _, zero_block_forward, zero_block_quant M, zero_block_dequant M, zero_block_inverse⟩

theorem zero_enhanced_block (M : Block) :
    IsEnhancedBlock M (Vector.replicate 64 0) (Vector.replicate 64 0) (Vector.replicate 64 0) (Vector.replicate 64 0) :=
  ⟨Vector.replicate 64 0, _, _, _, fun e => by rw [get_replicate]; exact fl32_zero _, zero_block_forward,
    zero_block_quant M, zero_block_dequant M, zero_block_inverse, fun e => by rw [get_replicate]; exact fl32_zero _⟩

/-- A frame whose first block is all 255, with matrix entries of 2^-149. -/
def tiny : State := withMatrix { framed 8 8 0 192 384 576 with fmem := (List.range 64).map fun a => (a, 255#8) } 1

theorem tiny_samples : samplesAt tiny 0 0 0 0 = Vector.replicate 64 (dec32 0x437F0000#32) ∧
    samplesAt tiny 1 0 0 0 = Vector.replicate 64 0 := by decide +kernel

/-- The DC coefficient of a constant block is what the transform's two passes give. -/
theorem forward_dc_of_255 {Y : Block} (h : IsForward (Vector.replicate 64 (dec32 0x437F0000#32)) Y) :
    Y[(0 : Fin 64)] = dec32 0x44FEFFFF#32 := by
  obtain ⟨T, h1, h2⟩ := h
  have ht : ∀ r : Fin 8, at8 T r 0 = dec32 0x44344FEE#32 := by
    intro r
    have := h1 r 0
    simp only [at8_replicate] at this
    rw [show fl32 (∑ n : Fin 8, coef 0 n * dec32 0x437F0000#32) (2 ^ 149) = some (dec32 0x44344FEE#32) by
      decide +kernel] at this
    injection this with this
    exact this.symm
  have := h2 0 0
  simp only [ht] at this
  rw [show fl32 (∑ n : Fin 8, coef 0 n * dec32 0x44344FEE#32) (2 ^ 149) = some (dec32 0x44FEFFFF#32) by
    decide +kernel] at this
  injection this with this
  exact this.symm

theorem tiny_overflows {Y Q : Block} (h : IsForward (Vector.replicate 64 (dec32 0x437F0000#32)) Y)
    (hq : IsQuant Y (entriesOf tiny 0) Q) : False := by
  obtain ⟨t, ht, -⟩ := hq 0
  rw [forward_dc_of_255 h, tiny, withMatrix_entries, get_replicate,
    show fl32 (dec32 0x44FEFFFF#32 * 2 ^ 149) (dec32 1).toNat = none by decide +kernel] at ht
  cases ht

theorem witness_BasefOutcome :
    (¬ ((4#4 : Sel).toNat < 4 ∧ (3#4 : Sel).toNat < 4 ∧ (1#4 : Sel).toNat < 2) ∧
      ¬ ((3#4 : Sel).toNat < 4 ∧ (4#4 : Sel).toNat < 4 ∧ (1#4 : Sel).toNat < 2) ∧
      ¬ ((3#4 : Sel).toNat < 4 ∧ (3#4 : Sel).toNat < 4 ∧ (2#4 : Sel).toNat < 2)) ∧
    ¬ MatrixReady zeroEntry63 0 ∧
    (MatrixReady (framed 0 8 0 0 0 9) 0 ∧ (framed 0 8 0 0 0 9).width = 0 ∧ (framed 8 0 0 0 0 9).height = 0) ∧
    (MatrixReady (framed 8 8 0 191 0 999) 0 ∧ (framed 8 8 0 191 0 999).width ≠ 0 ∧
      (framed 8 8 0 191 0 999).height ≠ 0 ∧ ¬ FrameOk (framed 8 8 0 191 0 999) 1 [0] ∧
      ¬ FrameOk (framed 8 8 0 192 0 383) 1 [0]) ∧
    (MatrixReady tiny 0 ∧ FrameOk tiny 1 [0] ∧ ∃ ch row col, IsFullBlock tiny ch row col ∧
      ¬ ∃ Z, IsBaseBlock (entriesOf tiny 0) (samplesAt tiny 0 ch row col) Z) ∧
    (MatrixReady edged9 0 ∧ FrameOk edged9 1 [0] ∧ Memory.wf edged9.fmem = true ∧
      (∀ ch row col, IsFullBlock edged9 ch row col →
        ∃ Z, IsBaseBlock (entriesOf edged9 0) (samplesAt edged9 0 ch row col) Z) ∧
      IsEdgeSample edged9 2 7 8 ∧ IsFullBlock edged9 2 0 0 ∧
      IsBaseBlock (entriesOf edged9 0) (samplesAt edged9 0 2 0 0) (Vector.replicate 64 0) ∧
      215 < edged9.fb[1].toNat ∧ edged9.fb[1].toNat + 3 * edged9.width * edged9.height ≤ 432) := by
  refine ⟨by decide, zeroEntry63_not_ready, ⟨reset_matrices_ready 0, by decide +kernel, by decide +kernel⟩,
    ⟨reset_matrices_ready 0, by decide +kernel, by decide +kernel, ?_, ?_⟩,
    ⟨withMatrix_ready _ _ (by decide) (by decide +kernel), ?_, 0, 0, 0, by unfold IsFullBlock; decide +kernel, ?_⟩,
    edged9_ready 0, edged9_frameOk.1, rfl, ?_, by unfold IsEdgeSample; decide +kernel,
    by unfold IsFullBlock; decide +kernel, ?_, by decide +kernel, by decide +kernel⟩
  · unfold FrameOk SlotFits Compatible
    decide +kernel
  · unfold FrameOk SlotFits Compatible
    decide +kernel
  · unfold FrameOk SlotFits Compatible
    decide +kernel
  · rintro ⟨Z, Y, Q, D, h, hq, -⟩
    rw [tiny_samples.1] at h
    exact tiny_overflows h hq
  · intro ch row col _
    rw [edged9_samples]
    exact ⟨_, zero_base_block _⟩
  · rw [edged9_samples]
    exact zero_base_block _

theorem witness_EnhfOutcome :
    (¬ ((4#4 : Sel).toNat < 4 ∧ (3#4 : Sel).toNat < 4 ∧ (3#4 : Sel).toNat < 4 ∧ (1#4 : Sel).toNat < 2) ∧
      ¬ ((3#4 : Sel).toNat < 4 ∧ (4#4 : Sel).toNat < 4 ∧ (3#4 : Sel).toNat < 4 ∧ (1#4 : Sel).toNat < 2) ∧
      ¬ ((3#4 : Sel).toNat < 4 ∧ (3#4 : Sel).toNat < 4 ∧ (4#4 : Sel).toNat < 4 ∧ (1#4 : Sel).toNat < 2) ∧
      ¬ ((3#4 : Sel).toNat < 4 ∧ (3#4 : Sel).toNat < 4 ∧ (3#4 : Sel).toNat < 4 ∧ (2#4 : Sel).toNat < 2)) ∧
    ¬ MatrixReady zeroEntry63 0 ∧
    (MatrixReady (framed 0 8 0 0 0 9) 0 ∧ (framed 0 8 0 0 0 9).width = 0 ∧ (framed 8 0 0 0 0 9).height = 0) ∧
    (MatrixReady (framed 8 8 0 193 384 999) 0 ∧ (framed 8 8 0 193 384 999).width ≠ 0 ∧
      (framed 8 8 0 193 384 999).height ≠ 0 ∧ ¬ FrameOk (framed 8 8 0 193 384 999) 2 [0, 1] ∧
      ¬ FrameOk (framed 8 8 0 192 384 575) 2 [0, 1]) ∧
    (MatrixReady tiny 0 ∧ FrameOk tiny 2 [0, 1] ∧ ∃ ch row col, IsFullBlock tiny ch row col ∧
      ¬ ∃ Q E, IsEnhancedBlock (entriesOf tiny 0) (samplesAt tiny 0 ch row col) (samplesAt tiny 1 ch row col) Q E) ∧
    (MatrixReady edged9 0 ∧ FrameOk edged9 2 [0, 1] ∧ Memory.wf edged9.fmem = true ∧
      (∀ ch row col, IsFullBlock edged9 ch row col → ∃ Q E, IsEnhancedBlock (entriesOf edged9 0)
        (samplesAt edged9 0 ch row col) (samplesAt edged9 1 ch row col) Q E) ∧
      IsEdgeSample edged9 2 7 8 ∧ IsFullBlock edged9 2 0 0 ∧
      IsEnhancedBlock (entriesOf edged9 0) (samplesAt edged9 0 2 (edged9.height / 8 - 1) (edged9.width / 8 - 1))
        (samplesAt edged9 1 2 (edged9.height / 8 - 1) (edged9.width / 8 - 1)) (Vector.replicate 64 0)
        (Vector.replicate 64 0) ∧
      431 < edged9.fb[2].toNat ∧ edged9.fb[2].toNat + 3 * edged9.width * edged9.height ≤ 648 ∧
      8 ≤ edged9.width ∧ 8 ≤ edged9.height) ∧
    (MatrixReady (framed 7 8 0 168 336 504) 0 ∧ FrameOk (framed 7 8 0 168 336 504) 2 [0, 1] ∧
      Memory.wf (framed 7 8 0 168 336 504).fmem = true ∧
      (∀ ch row col, ¬ IsFullBlock (framed 7 8 0 168 336 504) ch row col) ∧ (framed 7 8 0 168 336 504).width < 8) := by
  refine ⟨by decide, zeroEntry63_not_ready, ⟨reset_matrices_ready 0, by decide +kernel, by decide +kernel⟩,
    ⟨reset_matrices_ready 0, by decide +kernel, by decide +kernel, ?_, ?_⟩,
    ⟨withMatrix_ready _ _ (by decide) (by decide +kernel), ?_, 0, 0, 0, by unfold IsFullBlock; decide +kernel, ?_⟩,
    ⟨edged9_ready 0, edged9_frameOk.2, rfl, ?_, by unfold IsEdgeSample; decide +kernel,
    by unfold IsFullBlock; decide +kernel, ?_, by decide +kernel, by decide +kernel, by decide +kernel,
    by decide +kernel⟩, reset_matrices_ready 0, ?_, rfl, ?_, by decide +kernel⟩
  · unfold FrameOk SlotFits Compatible
    decide +kernel
  · unfold FrameOk SlotFits Compatible
    decide +kernel
  · unfold FrameOk SlotFits Compatible
    decide +kernel
  · rintro ⟨Q, E, R, Y, D, F, hr, h, hq, -⟩
    rw [tiny_samples.1, tiny_samples.2] at hr
    have hR : R = Vector.replicate 64 (dec32 0x437F0000#32) := by
      ext i hi
      have := hr ⟨i, hi⟩
      rw [get_replicate, get_replicate, show fl32 (dec32 0x437F0000#32 - 0) 1 = some (dec32 0x437F0000#32) by
        decide +kernel] at this
      injection this with this
      rw [Vector.getElem_replicate]
      exact this.symm
    rw [hR] at h
    exact tiny_overflows h hq
  · intro ch row col _
    rw [edged9_samples, edged9_samples]
    exact ⟨_, _, zero_enhanced_block _⟩
  · rw [edged9_samples, edged9_samples]
    exact zero_enhanced_block _
  · unfold FrameOk SlotFits Compatible
    decide +kernel
  · rintro ch row col ⟨-, -, h⟩
    have : (framed 7 8 0 168 336 504).width = 7 := by decide +kernel
    omega

theorem witness_EnhfOfEqualFramesCopies :
    MatrixReady edged9 1 ∧ FrameOk edged9 2 [0, 1] ∧ Memory.wf edged9.fmem = true ∧
    (∀ j, j < 3 * edged9.width * edged9.height → Memory.read edged9.fmem (edged9.fb[0].toNat + j) =
      Memory.read edged9.fmem (edged9.fb[1].toNat + j)) ∧ 8 ≤ edged9.width ∧ 8 ≤ edged9.height :=
  ⟨edged9_ready 1, edged9_frameOk.2, rfl, fun _ _ => rfl, by decide +kernel, by decide +kernel⟩

/-- The boundary of the rule: entries of exactly 2^-100, the word 0x0D800000. -/
theorem witness_OrdinaryMatricesNeverOverflow :
    MatrixReady (withMatrix edged9 0x0D800000#32) 0 ∧
    (∀ e : Fin 64, (2 : Int) ^ 49 ≤ dec32 (withMatrix edged9 0x0D800000#32).qm[0][e]) ∧
    FrameOk (withMatrix edged9 0x0D800000#32) 2 [0] ∧ FrameOk (withMatrix edged9 0x0D800000#32) 2 [0, 1] := by
  refine ⟨withMatrix_ready _ _ (by decide) (by decide +kernel), by decide +kernel, ?_⟩
  unfold FrameOk SlotFits Compatible
  decide +kernel

theorem witness_LinitOutcome :
    State.reset.lstat.state = .idle ∧ ¬ ((streaming (input [] 0) (input [] 0)).lstat.state = .idle ∨
      (streaming (input [] 0) (input [] 0)).lstat.state = .closed) := by decide

/-- A run in `Opening`. -/
def opening (a b : InPort) : State := { State.reset with lstat := { Lstat.reset with state := .opening }, ina := a, inb := b }

theorem witness_LopenOutcome :
    ((streaming (input [] 0) (input [] 0)).lstat.state ≠ .idle ∧
      (streaming (input [] 0) (input [] 0)).lstat.state ≠ .opening) ∧ State.reset.lstat.state = .idle ∧
    ((opening (input [] 0) (input [] 0)).lstat.state = .opening ∧ (opening (input [] 0) (input [] 0)).ina.present = true ∧
      (opening (input [] 0) (input [] 0)).inb.present = true) ∧
    ((opening (input [] 0) InPort.detached).lstat.state = .opening ∧
      ¬ ((opening (input [] 0) InPort.detached).ina.present = true ∧
        (opening (input [] 0) InPort.detached).inb.present = true)) := by decide

/-- A pair-step would meet the Frames `ta` and `tb`. -/
def twoFrames (s : State) (ta tb : List Byte) : Prop :=
  s.lstat.state = .streaming ∧ s.ina.ready = true ∧ s.inb.ready = true ∧
  s.ina.frames[s.ina.pos]? = some ta ∧ s.inb.frames[s.inb.pos]? = some tb

/-- A pair-step would meet an end of stream. -/
def lastPosition (s : State) : Prop :=
  s.lstat.state = .streaming ∧ s.ina.ready = true ∧ s.inb.ready = true ∧
  (s.ina.frames.length ≤ s.ina.pos ∨ s.inb.frames.length ≤ s.inb.pos)

/-- The pair-step's cases: not streaming; one input not ready; two Frames; the last position of one stream. -/
theorem witness_LstepOutcome :
    State.reset.lstat.state ≠ .streaming ∧
    ((streaming (input [] 0) InPort.detached).lstat.state = .streaming ∧
      ¬ ((streaming (input [] 0) InPort.detached).ina.ready = true ∧
        (streaming (input [] 0) InPort.detached).inb.ready = true)) ∧
    twoFrames (streaming (input [[1], [2]] 1) (input [[3], [4]] 1)) [2] [4] ∧
    lastPosition (streaming (input [[1], [2]] 1) (input [[3]] 1)) := by
  unfold twoFrames lastPosition
  decide

theorem witness_LrunOutcome :
    State.reset.lstat.state ≠ .streaming ∧
    ((streaming InPort.detached (input [] 0)).lstat.state = .streaming ∧
      ¬ ((streaming InPort.detached (input [] 0)).ina.ready = true ∧
        (streaming InPort.detached (input [] 0)).inb.ready = true)) ∧
    twoFrames (streaming (input [[1]] 0) (input [[3]] 0)) [1] [3] ∧
    lastPosition (streaming (input [[1]] 1) (input [[3], [4]] 1)) := by
  unfold twoFrames lastPosition
  decide

/-- Two frames against one, by both commands; no frame against one. -/
theorem witness_CombinerLengthLaw :
    ((streaming (input [[1], [2]] 0) (input [[3]] 0)).lstat.state = .streaming ∧
      (streaming (input [[1], [2]] 0) (input [[3]] 0)).ina.pos = 0 ∧
      (streaming (input [[1], [2]] 0) (input [[3]] 0)).inb.pos = 0 ∧
      (∀ i ∈ [Instr.lrun, .lstep], i = .lrun ∨ i = .lstep) ∧
      [Instr.lrun, .lstep].length = min (streaming (input [[1], [2]] 0) (input [[3]] 0)).ina.frames.length
        (streaming (input [[1], [2]] 0) (input [[3]] 0)).inb.frames.length + 1) ∧
    ((streaming (input [] 0) (input [[3]] 0)).lstat.state = .streaming ∧
      (streaming (input [] 0) (input [[3]] 0)).ina.pos = 0 ∧ (streaming (input [] 0) (input [[3]] 0)).inb.pos = 0 ∧
      (∀ i ∈ [Instr.lrun], i = .lrun ∨ i = .lstep) ∧
      [Instr.lrun].length = min (streaming (input [] 0) (input [[3]] 0)).ina.frames.length
        (streaming (input [] 0) (input [[3]] 0)).inb.frames.length + 1) := by decide

/-- One and a half units is a tie. -/
theorem witness_RoundingIsNearest :
    (0 < 7 ∧ (fl32 (2 ^ 150) 7).isSome = true) ∧
    (0 < 2 ∧ fl32 3 2 = some 2 ∧ 2 * (3 : Int).natAbs = (2 * 1 + 1) * 2 ^ scale32 ((3 : Int).natAbs / 2) * 2) ∧
    (0 < 7 ∧ inF32 (2 ^ 277 - 2 ^ 253) = true) := by decide +kernel

theorem witness_OverflowThreshold :
    0 < 7 ∧ fl32 ((2 ^ 277 - 2 ^ 252) * 7) 7 = none ∧ (fl32 ((2 ^ 277 - 2 ^ 252) * 7 - 1) 7).isSome = true := by
  decide +kernel

theorem witness_WordsAndValuesAgree :
    inF32 (2 ^ 277 - 2 ^ 253) = true ∧ inF32 0 = true ∧ finite32 0x80000000#32 = true ∧
    finite32 0x7F7FFFFF#32 = true ∧ 0x7F7FFFFF#32 ≠ 0x80000000#32 := by decide +kernel

/-- 254.99 and the tie 0.5. -/
theorem witness_StoredSampleIsNearest :
    (2 * |min (max (dec32 0x437EFD70#32) 0) (255 * 2 ^ 149) - 255 * 2 ^ 149| < 2 ^ 149) ∧
    (2 * |min (max (dec32 0x3F000000#32) 0) (255 * 2 ^ 149) - 0 * 2 ^ 149| = 2 ^ 149 ∧ (0 : Int) % 2 = 0) := by
  decide +kernel

theorem witness_ConstantAndDcBlocks :
    (fl32 (8 * dec32 0x3EB504F3#32 * dec32 0x43000000#32) (2 ^ 149) = some (dec32 0x43B504F3#32) ∧
      fl32 (8 * dec32 0x3EB504F3#32 * dec32 0x43B504F3#32) (2 ^ 149) = some (dec32 0x447FFFFF#32)) ∧
    (fl32 (dec32 0x3EB504F3#32 * dec32 0x44800000#32) (2 ^ 149) = some (dec32 0x43B504F3#32) ∧
      fl32 (dec32 0x3EB504F3#32 * dec32 0x43B504F3#32) (2 ^ 149) = some (dec32 0x42FFFFFF#32)) := by decide +kernel

/-- The smallest DC entry the rule allows, 1/256, with the largest sample. -/
theorem witness_ConstantBlocksSurvive :
    (255 ≤ 255) ∧ (∀ e : Fin 64, 0 < (Vector.replicate 64 ((2 : Int) ^ 141))[e]) ∧
    (2 : Int) ^ 149 ≤ 256 * (Vector.replicate 64 ((2 : Int) ^ 141))[0] ∧
    522240 * (Vector.replicate 64 ((2 : Int) ^ 141))[0] = 8 * (255 : Nat) * 2 ^ 149 := by
  refine ⟨le_refl _, fun e => ?_, ?_, ?_⟩
  · rw [get_replicate]
    positivity
  · rw [Vector.getElem_replicate]
    norm_num
  · rw [Vector.getElem_replicate]
    norm_num

theorem witness_NoSpuriousOverflow : ∀ e : Fin 64, (Vector.replicate 64 ((2 : Int) ^ 269))[e].natAbs ≤ 2 ^ 269 := by
  intro e
  rw [get_replicate]
  decide +kernel

theorem witness_TransformAccuracy :
    ∃ K : Fin 8 → Fin 8 → ℝ, (∀ k n : Fin 8, K k n = (if k = 0 then 1 / (2 * Real.sqrt 2) else 1 / 2) *
      Real.cos ((2 * (n.val : ℝ) + 1) * k.val * Real.pi / 16)) ∧
    (∀ e : Fin 64, |(Vector.replicate 64 (dec32 0x43000000#32))[e]| ≤ dec32 0x43000000#32) ∧
    IsForward (Vector.replicate 64 (dec32 0x43000000#32)) (dcBlock (dec32 0x447FFFFF#32)) ∧
    (∀ e : Fin 64, |(dcBlock (dec32 0x44800000#32))[e]| ≤ dec32 0x44800000#32) ∧
    IsInverse (dcBlock (dec32 0x44800000#32)) (Vector.replicate 64 (dec32 0x42FFFFFF#32)) := by
  refine ⟨_, fun _ _ => rfl, fun e => ?_, test_forward_of_constant_128, fun e => ?_, test_inverse_of_dc_1024⟩
  · rw [get_replicate]
    decide +kernel
  · rw [get_dcBlock]
    split <;> decide +kernel

/-- Busy; busy with a fault; idle with and without a fault. -/
theorem witness_CmdWriteProtocol :
    0x02000000#32 = 0x02000000#32 ∧
    (0x02000001#32 ≠ 0x02000000#32 ∧ (State.withPending State.reset 0).status.busy = true) ∧
    (0x01000001#32 ≠ 0x02000000#32 ∧ (State.takeFault State.reset .uninit).status.busy = false ∧
      (State.takeFault State.reset .uninit).status.err = true ∧ 0x01000001#32 ≠ 0x01000000#32) ∧
    (0x01000000#32 ≠ 0x02000000#32 ∧ State.reset.status.busy = false ∧ State.reset.status.err = false) := by decide

theorem witness_BusyAccesses :
    (State.withPending State.reset 0).status.busy = true ∧
    (4092 % 4 = 0 ∧ 4092 < 4096 ∧ ¬ (4092 = 0x004 ∧ 0#32 = 0x02000000#32)) ∧
    2 ^ 32 - 1 < (State.withPending (framed 0 0 0 0 0 (2 ^ 32)) 0).fmemSize ∧
    (State.withPending (framed 0 0 0 0 0 (2 ^ 32)) 0).status.busy = true ∧
    (0x5FC % 4 = 0 ∧ 0x400 ≤ 0x5FC ∧ 0x5FC < 0x600) ∧ (0xBFC % 4 = 0 ∧ 0x800 ≤ 0xBFC ∧ 0xBFC < 0xC00) := by decide

theorem witness_HostReadMap :
    State.reset.status.busy = false ∧ (constant 0).brv[(0 : Fin 4)][(63 : Fin 64)] = true ∧
    State.reset.brv[(3 : Fin 4)][(63 : Fin 64)] = false ∧ (0x03C % 4 = 0 ∧ 0x030 ≤ 0x03C ∧ 0x03C < 0x040) ∧
    ((framed 0 0 0 0 0 (2 ^ 32)).status.busy = false ∧ 2 ^ 32 - 1 < (framed 0 0 0 0 0 (2 ^ 32)).fmemSize) := by
  decide +kernel

theorem witness_HostWriteEffects :
    State.reset.status.busy = false ∧ (0xFFC % 4 = 0 ∧ 0xC00 ≤ 0xFFC ∧ 0xFFC < 0x1000) ∧
    ((framed 0 0 0 0 0 (2 ^ 32)).status.busy = false ∧ 2 ^ 32 - 1 < (framed 0 0 0 0 0 (2 ^ 32)).fmemSize ∧
      Memory.wf (framed 0 0 0 0 0 (2 ^ 32)).fmem = true) := by decide

theorem witness_MeaninglessAccessesRefused :
    AccessWidth.half ≠ .word ∧ 2 % 4 ≠ 0 ∧ 4096 ≤ 4096 ∧ AccessWidth.word ≠ .byte ∧
    (framed 0 0 0 0 0 1).fmemSize ≤ 1 := by
  decide

/-- Fresh port records. -/
def attaches : Event := .attach (input [] 0) (input [] 0) OutPort.detached OutPort.detached OutPort.detached

theorem witness_OtherAgentsSteps :
    ({ State.reset with agenda := [.hrsWrite .word 0 0] }).agenda = .hrsWrite .word 0 0 :: [] ∧
    ({ State.reset with agenda := [.hrsRead .word 0] }).agenda = .hrsRead .word 0 :: [] ∧
    ({ State.reset with agenda := [.fmemWrite .byte 0 0] }).agenda = .fmemWrite .byte 0 0 :: [] ∧
    ({ State.reset with agenda := [.fmemRead .byte 0] }).agenda = .fmemRead .byte 0 :: [] ∧
    ({ State.reset with agenda := [.producerReady .a] }).agenda = .producerReady .a :: [] ∧
    ({ State.reset with agenda := [.producerReady .b] }).agenda = .producerReady .b :: [] ∧
    (({ State.reset with agenda := [attaches] }).agenda = attaches :: [] ∧ State.reset.lstat.state = .idle ∧
      State.reset.status.busy = false) ∧
    ({ streaming (input [] 0) (input [] 0) with agenda := [attaches] }).agenda = attaches :: [] ∧
      ¬ (((streaming (input [] 0) (input [] 0)).lstat.state = .idle ∨
        (streaming (input [] 0) (input [] 0)).lstat.state = .closed) ∧
        (streaming (input [] 0) (input [] 0)).status.busy = false) := by decide

theorem reset_meets_inv : Inv State.reset := by constructor <;> decide

theorem witness_StepKeepsInvariant : Inv State.reset ∧ step State.reset = .next State.reset := ⟨reset_meets_inv, rfl⟩

theorem witness_StepKeepsDepthInRange : DepthInRange State.reset ∧ step State.reset = .next State.reset :=
  ⟨by unfold DepthInRange; decide, rfl⟩

theorem witness_StepKeepsPlatform : step State.reset = .next State.reset := rfl

theorem witness_FaultRecordIsLocked :
    Inv (State.takeFault State.reset .uninit) ∧ (State.takeFault State.reset .uninit).status.err = true ∧
    step (State.takeFault State.reset .uninit) = .next (State.takeFault State.reset .uninit) ∧
    (Inv (State.withPending (State.takeFault State.reset .uninit) 0x01000000#32) ∧
      clearsNext (State.withPending (State.takeFault State.reset .uninit) 0x01000000#32) ∧
      ∃ t, step (State.withPending (State.takeFault State.reset .uninit) 0x01000000#32) = .next t) :=
  ⟨by constructor <;> decide, rfl, rfl, by constructor <;> decide, ⟨rfl, .inl rfl⟩, _, rfl⟩

theorem witness_OnlyResetClearsValidBits :
    step (constant 0) = .next (constant 0) ∧ (constant 0).brv[(0 : Fin 4)][(63 : Fin 64)] = true :=
  ⟨rfl, by decide +kernel⟩

theorem witness_CommandsLeaveMatrices :
    (exec .nop State.reset = .next State.reset ∧ Instr.nop ≠ .sreset ∧ ∀ qk n, Instr.nop ≠ .qmfill qk n) ∧
    (∃ t, exec (.qmfill (sel (0 : Fin 2)) 1) State.reset = .next t) ∧ (1 : Fin 2) ≠ 0 :=
  ⟨⟨rfl, by decide, fun _ _ h => by cases h⟩, ⟨_, rfl⟩, by decide⟩

/-- CLIP of a negative word changes it. -/
theorem witness_CommandsStoreFiniteWords :
    Instr.clip 0 0 ≠ .sreset ∧ leads (exec (.clip 0 0) (constant 0xC0600000#32)) (fun t =>
      decide (t.br[(0 : Fin 4)][(63 : Fin 64)] ≠ (constant 0xC0600000#32).br[(0 : Fin 4)][(63 : Fin 64)])) = true := by
  decide +kernel

theorem witness_CombinerIsDisjoint :
    (∃ t, exec .linit State.reset = .next t) ∧ Instr.linit ≠ .sreset ∧ isCombinerCommand .linit = true ∧
    (∃ t, exec .nop State.reset = .next t) ∧ Instr.nop ≠ .sreset ∧ isCombinerCommand .nop = false :=
  ⟨⟨_, rfl⟩, by decide, rfl, ⟨_, rfl⟩, by decide, rfl⟩

end Sys2Proof.Tests
end

section
/-!
The rounding of an exact fraction to an integer, `rne_int` of `00_scope.md` R12. `le_rneDiv_iff` is the one
lemma that opens `rneDiv`: it says which integers lie at or below the result, the tie included, and the rest
of the section reads off it.
-/

namespace Sys2Proof.Machine

/-- An integer is at most the rounding when the fraction is past the midpoint below it, or on that midpoint
and the integer is even. -/
theorem le_rneDiv_iff {num j : Int} {den : Nat} (hd : 0 < den) :
    j ≤ rneDiv num den ↔ (2 * j - 1) * den < 2 * num ∨ (2 * j - 1) * den = 2 * num ∧ j % 2 = 0 := by
  have hpos : (0 : Int) < den := by exact_mod_cast hd
  have hnum := Int.mul_ediv_add_emod num den
  have hr0 := Int.emod_nonneg num hpos.ne'
  have hr1 := Int.emod_lt_of_pos num hpos
  obtain ⟨i, rfl⟩ : ∃ i, j = num / den + i := ⟨j - num / den, by ring⟩
  have hj : (2 * (num / (den : Int) + i) - 1) * den = 2 * (den * (num / (den : Int))) + (2 * i - 1) * den := by
    ring
  rw [hj]
  unfold rneDiv
  dsimp only
  rcases lt_trichotomy i 1 with hi | rfl | hi
  · have : (2 * i - 1) * (den : Int) < 0 := mul_neg_of_neg_of_pos (by omega) hpos
    split <;> omega
  · split <;> omega
  · have : 3 * (den : Int) ≤ (2 * i - 1) * den := mul_le_mul_of_nonneg_right (by omega) hpos.le
    split <;> omega

theorem le_rneDiv {num j : Int} {den : Nat} (hd : 0 < den) (h : j * den ≤ num) : j ≤ rneDiv num den := by
  have hpos : (0 : Int) < den := by exact_mod_cast hd
  exact (le_rneDiv_iff hd).2 (.inl (by linarith))

theorem rneDiv_le {num j : Int} {den : Nat} (hd : 0 < den) (h : num ≤ j * den) : rneDiv num den ≤ j := by
  have hpos : (0 : Int) < den := by exact_mod_cast hd
  refine not_lt.1 fun hlt => ?_
  rcases (le_rneDiv_iff hd).1 (Int.add_one_le_of_lt hlt) with h | ⟨h, -⟩ <;> linarith

/-- No integer is nearer to the fraction than its rounding. -/
theorem rneDiv_nearest (num j : Int) {den : Nat} (hd : 0 < den) :
    |rneDiv num den * den - num| ≤ |j * den - num| := by
  have hpos : (0 : Int) < den := by exact_mod_cast hd
  rcases eq_or_ne j (rneDiv num den) with rfl | hne
  · exact le_rfl
  · have hstep : (den : Int) ≤ |j * den - rneDiv num den * den| := by
      rw [← sub_mul, abs_mul, Nat.abs_cast]
      exact le_mul_of_one_le_left hpos.le (Int.one_le_abs (sub_ne_zero.2 hne))
    have hhalf : 2 * |rneDiv num den * den - num| ≤ den := by
      obtain ⟨hhi, hlo⟩ := rneDiv_near num hd
      rw [← abs_two, ← abs_mul]
      exact abs_le.2 ⟨hlo, hhi⟩
    have htri := abs_sub_le (j * den) num (rneDiv num den * den)
    rw [abs_sub_comm num] at htri
    linarith

/-- A fraction less than half from an integer rounds to it. -/
theorem rneDiv_eq_of_near {num n : Int} {den : Nat} (h : 2 * |num - n * den| < den) : rneDiv num den = n := by
  have hd : 0 < den := by have := abs_nonneg (num - n * den); omega
  obtain ⟨hlo, hhi⟩ := abs_lt.1 (show |2 * (num - n * den)| < den by rwa [abs_mul])
  refine le_antisymm (not_lt.1 fun hlt => ?_) ((le_rneDiv_iff hd).2 (.inl (by linarith)))
  rcases (le_rneDiv_iff hd).1 (Int.add_one_le_of_lt hlt) with h | ⟨h, -⟩ <;> linarith

/-- A fraction halfway from an even integer rounds to it. -/
theorem rneDiv_eq_of_tie {num n : Int} {den : Nat} (hd : 0 < den) (h : 2 * |num - n * den| = den)
    (hn : n % 2 = 0) : rneDiv num den = n := by
  obtain ⟨hlo, hhi⟩ := abs_le.1 (show |2 * (num - n * den)| ≤ den by rw [abs_mul]; exact h.le)
  refine le_antisymm (not_lt.1 fun hlt => ?_) ((le_rneDiv_iff hd).2 ?_)
  · rcases (le_rneDiv_iff hd).1 (Int.add_one_le_of_lt hlt) with h | ⟨-, hodd⟩
    · linarith
    · omega
  · rcases lt_or_eq_of_le hlo with h | h
    · exact .inl (by linarith)
    · exact .inr ⟨by linarith, hn⟩

/-- A fraction halfway between two integers rounds to an even one. -/
theorem rneDiv_even_of_tie {num n : Int} {den : Nat} (hd : 0 < den) (h : 2 * num = (2 * n + 1) * den) :
    rneDiv num den % 2 = 0 := by
  have hpos : (0 : Int) < den := by exact_mod_cast hd
  rcases Int.emod_two_eq_zero_or_one n with hn | hn
  · have hdist : 2 * (num - n * den) = den := by linarith
    rw [rneDiv_eq_of_tie hd (by rw [abs_of_nonneg (by linarith), hdist]) hn, hn]
  · have hdist : 2 * (num - (n + 1) * den) = -den := by linarith
    rw [rneDiv_eq_of_tie (n := n + 1) hd (by rw [abs_of_nonpos (by linarith)]; linarith) (by omega)]
    omega

end Sys2Proof.Machine
end

section
/-!
The spacing of binary32 and membership of `F32` (`00_scope.md` R10). The spacing at `n` is `2^scale32 n`;
`lt_scale32_iff` is the one lemma that opens `scale32`.
-/

namespace Sys2Proof.Machine

theorem lt_scale32_iff {k n : Nat} : k < scale32 n ↔ 2 ^ (k + 24) ≤ n := by
  rcases eq_or_ne n 0 with rfl | hn
  · simp [scale32]
  · rw [← Nat.le_log2 hn, scale32]
    omega

theorem scale32_le_iff {k n : Nat} : scale32 n ≤ k ↔ n < 2 ^ (k + 24) := by
  rw [← not_lt, lt_scale32_iff, not_le]

/-- The numbers of a smaller spacing lie below the binade of a larger one. -/
theorem lt_of_scale32_lt {k n : Nat} (h : scale32 n < k) : n < 2 ^ (k + 23) := by
  obtain ⟨k, rfl⟩ : ∃ j, k = j + 1 := ⟨k - 1, by omega⟩
  exact scale32_le_iff.1 (Nat.le_of_lt_succ h)

/-- A magnitude above the subnormal spacing has 24 significant bits. -/
theorem le_of_scale32_pos {n : Nat} (h : 0 < scale32 n) : 2 ^ (scale32 n + 23) ≤ n := by
  obtain ⟨k, hk⟩ : ∃ k, scale32 n = k + 1 := ⟨scale32 n - 1, by omega⟩
  rw [hk]
  exact lt_scale32_iff.1 (by omega)

theorem scale32_mul_two_pow {c k : Nat} (hlo : 2 ^ 23 ≤ c) (hhi : c < 2 ^ 24) : scale32 (c * 2 ^ k) = k := by
  refine le_antisymm (scale32_le_iff.2 ?_) (not_lt.1 fun h => absurd (lt_of_scale32_lt h) (not_lt.2 ?_))
  · rw [add_comm, pow_add]
    exact Nat.mul_lt_mul_of_pos_right hhi (by positivity)
  · rw [add_comm, pow_add]
    exact Nat.mul_le_mul_right _ hlo

/-- The significand of a normal magnitude in `F32` has 24 bits. -/
theorem significand_bounds {n c : Nat} (hn : 2 ^ 23 ≤ n) (hc : n = 2 ^ scale32 n * c) :
    2 ^ 23 ≤ c ∧ c < 2 ^ 24 := by
  have hhi : n < 2 ^ (scale32 n + 24) := scale32_le_iff.1 le_rfl
  have hlo : 2 ^ (scale32 n + 23) ≤ n := by
    rcases Nat.eq_zero_or_pos (scale32 n) with hk | hk
    · rwa [hk, zero_add]
    · exact le_of_scale32_pos hk
  generalize scale32 n = k at hc hhi hlo
  rw [hc, pow_add] at hhi hlo
  exact ⟨Nat.le_of_mul_le_mul_left hlo (by positivity), Nat.lt_of_mul_lt_mul_left hhi⟩

/-- `limit32` as a power of two split where a proof needs it. -/
theorem limit32_eq {p q : Nat} (h : p + q = 277) : limit32 = 2 ^ (p + q) := by rw [h, limit32]

theorem inF32_iff {v : Int} :
    inF32 v = true ↔ v.natAbs < limit32 ∧ 2 ^ scale32 v.natAbs ∣ v.natAbs := by
  simp [inF32]

@[simp] theorem inF32_neg (v : Int) : inF32 (-v) = inF32 v := by simp [inF32]

/-- At most `2^24` steps of any spacing, below 2^128, is in `F32`. -/
theorem inF32_of_natAbs_eq {v : Int} {c k : Nat} (hv : v.natAbs = c * 2 ^ k) (hc : c ≤ 2 ^ 24)
    (hlt : v.natAbs < limit32) : inF32 v = true := by
  refine inF32_iff.2 ⟨hlt, ?_⟩
  rcases hc.lt_or_eq with hc | rfl
  · have hk : scale32 v.natAbs ≤ k := by
      rw [scale32_le_iff, hv, add_comm, pow_add]
      exact Nat.mul_lt_mul_of_pos_right hc (by positivity)
    rw [hv] at hk ⊢
    exact (Nat.pow_dvd_pow 2 hk).mul_left c
  · rw [← pow_add] at hv
    have hk : scale32 v.natAbs ≤ k + 1 := by
      rw [scale32_le_iff, hv]
      exact Nat.pow_lt_pow_right (by omega) (by omega)
    rw [hv] at hk ⊢
    exact Nat.pow_dvd_pow 2 (by omega)

end Sys2Proof.Machine
end

section
/-!
The rounding to binary32, `fl32` of `00_scope.md` R11: the magnitude is rounded to the spacing of its binade,
and a magnitude that reaches 2^128 is `OVERFLOW`. The sign is put back last, so the lemmas are about the
rounded magnitude.
-/

namespace Sys2Proof.Machine

/-- The magnitude `fl32` rounds `a / den` to, before the test for `OVERFLOW` (R11). -/
def roundedMagnitude (a den : Nat) : Int :=
  rneDiv a (den * 2 ^ scale32 (a / den)) * 2 ^ scale32 (a / den)

theorem fl32_eq_none_iff {num : Int} {den : Nat} :
    fl32 num den = none ↔ (limit32 : Int) ≤ roundedMagnitude num.natAbs den := fl32_eq_none

theorem fl32_eq_some_iff {num v : Int} {den : Nat} :
    fl32 num den = some v ↔ roundedMagnitude num.natAbs den < limit32 ∧
      v = if num < 0 then -roundedMagnitude num.natAbs den else roundedMagnitude num.natAbs den := by
  have hfl : fl32 num den = if (limit32 : Int) ≤ roundedMagnitude num.natAbs den then none
      else some (if num < 0 then -roundedMagnitude num.natAbs den else roundedMagnitude num.natAbs den) := by
    unfold fl32
    rfl
  rw [hfl]
  split
  · next hover => exact iff_of_false nofun fun h => absurd h.1 (not_lt.2 hover)
  · next hin => rw [Option.some.injEq, eq_comm, and_iff_right (not_le.1 hin)]

theorem roundedMagnitude_mul (a den : Nat) :
    roundedMagnitude a den * den =
      rneDiv a (den * 2 ^ scale32 (a / den)) * ((den * 2 ^ scale32 (a / den) : Nat) : Int) := by
  unfold roundedMagnitude
  push_cast
  ring

/-- A rounded magnitude is at most `2^24` steps of its spacing. -/
theorem roundedMagnitude_eq_mul_pow (a : Nat) {den : Nat} (hd : 0 < den) :
    ∃ c : Nat, c ≤ 2 ^ 24 ∧ roundedMagnitude a den = (c * 2 ^ scale32 (a / den) : Nat) := by
  have ha : a < 2 ^ (scale32 (a / den) + 24) * den :=
    (Nat.div_lt_iff_lt_mul hd).1 (scale32_le_iff.1 le_rfl)
  unfold roundedMagnitude
  generalize scale32 (a / den) = k at ha ⊢
  have hle : rneDiv a (den * 2 ^ k) ≤ (2 ^ 24 : Nat) := by
    refine rneDiv_le (by positivity) ?_
    rw [← Int.natCast_mul, Int.ofNat_le]
    calc a ≤ 2 ^ (k + 24) * den := ha.le
      _ = 2 ^ 24 * (den * 2 ^ k) := by ring
  obtain ⟨c, hc⟩ := Int.eq_ofNat_of_zero_le (rneDiv_nonneg (Int.natCast_nonneg a) (den * 2 ^ k))
  rw [hc] at hle ⊢
  exact ⟨c, Int.ofNat_le.1 hle, by push_cast; rfl⟩

/-- No member of `F32` is nearer to `a / den` than the rounded magnitude. A member that is no multiple of the
spacing at `a / den` lies below its binade, whose first number is such a multiple and nearer. -/
theorem roundedMagnitude_nearest (a : Nat) {den : Nat} (hd : 0 < den) {w : Int} (hw : inF32 w = true) :
    |roundedMagnitude a den * den - a| ≤ |w * den - a| := by
  have hdk : 0 < den * 2 ^ scale32 (a / den) := by positivity
  have hnear := fun j => rneDiv_nearest a j hdk
  rw [roundedMagnitude_mul]
  rcases lt_or_ge w 0 with hneg | hpos
  · have hwd : w * den ≤ 0 := mul_nonpos_of_nonpos_of_nonneg hneg.le (Int.natCast_nonneg den)
    refine (hnear 0).trans ?_
    rw [zero_mul, abs_of_nonpos (by omega), abs_of_nonpos (by omega)]
    omega
  obtain ⟨n, rfl⟩ := Int.eq_ofNat_of_zero_le hpos
  obtain ⟨-, hdvd⟩ := inF32_iff.1 hw
  rw [Int.natAbs_natCast] at hdvd
  rcases le_or_gt (scale32 (a / den)) (scale32 n) with hk | hk
  · obtain ⟨j, rfl⟩ := (Nat.pow_dvd_pow 2 hk).trans hdvd
    convert hnear j using 3
    push_cast
    ring
  · have ha : 2 ^ (scale32 (a / den) + 23) * den ≤ a :=
      (Nat.le_div_iff_mul_le hd).1 (le_of_scale32_pos (Nat.zero_lt_of_lt hk))
    have hn : n * den ≤ 2 ^ (scale32 (a / den) + 23) * den :=
      Nat.mul_le_mul_right den (lt_of_scale32_lt hk).le
    have hbinade : (2 : Int) ^ 23 * ((den * 2 ^ scale32 (a / den) : Nat) : Int) =
        ((2 ^ (scale32 (a / den) + 23) * den : Nat) : Int) := by push_cast; ring
    refine (hnear (2 ^ 23)).trans ?_
    rw [hbinade, ← Int.natCast_mul, abs_of_nonpos (by omega), abs_of_nonpos (by omega)]
    omega

/-- A magnitude on the spacing rounds to itself. -/
theorem roundedMagnitude_exact {n den : Nat} (hd : 0 < den) (hn : 2 ^ scale32 n ∣ n) :
    roundedMagnitude (n * den) den = n := by
  obtain ⟨c, hc⟩ := hn
  unfold roundedMagnitude
  rw [Nat.mul_div_cancel n hd]
  generalize scale32 n = k at hc ⊢
  have hfrac : ((n * den : Nat) : Int) = c * ((den * 2 ^ k : Nat) : Int) := by rw [hc]; push_cast; ring
  rw [hfrac, rneDiv_exact _ (by positivity), hc]
  push_cast
  ring

/-- A rounded magnitude reaches a power of two from half a spacing below it: the midpoint there lies above the
odd multiple `2^24 - 1` of the spacing, so it rounds up. -/
theorem two_pow_le_roundedMagnitude_iff (a p : Nat) {den : Nat} (hd : 0 < den) :
    (2 ^ (p + 25) : Int) ≤ roundedMagnitude a den ↔ (2 ^ 25 - 1) * (den * 2 ^ p) ≤ a := by
  have hp : 0 < den * 2 ^ p := by positivity
  rcases lt_trichotomy (scale32 (a / den)) (p + 1) with hk | hk | hk
  · have ha : a < 2 ^ 24 * (den * 2 ^ p) := by
      calc a < 2 ^ (p + 24) * den :=
            (Nat.div_lt_iff_lt_mul hd).1 (scale32_le_iff.1 (Nat.le_of_lt_succ hk))
        _ = 2 ^ 24 * (den * 2 ^ p) := by ring
    obtain ⟨c, hc, hm⟩ := roundedMagnitude_eq_mul_pow a hd
    have hlt : c * 2 ^ scale32 (a / den) < 2 ^ (p + 25) := by
      calc c * 2 ^ scale32 (a / den) ≤ 2 ^ 24 * 2 ^ p :=
            Nat.mul_le_mul hc (Nat.pow_le_pow_right two_pos (Nat.le_of_lt_succ hk))
        _ = 2 ^ (24 + p) := (pow_add ..).symm
        _ < 2 ^ (p + 25) := Nat.pow_lt_pow_right one_lt_two (by omega)
    refine iff_of_false ?_ ?_
    · rw [hm, not_le]
      exact_mod_cast hlt
    · generalize den * 2 ^ p = d at ha hp ⊢
      omega
  · have hr := le_rneDiv_iff (num := a) (j := 2 ^ 24) (den := den * 2 ^ (p + 1)) (by positivity)
    have hd2 : den * 2 ^ (p + 1) = 2 * (den * 2 ^ p) := by ring
    have hpow : (2 ^ (p + 25) : Int) = 2 ^ 24 * 2 ^ (p + 1) := by ring
    unfold roundedMagnitude
    rw [hk, hpow, mul_le_mul_iff_left₀ (by positivity), hr, hd2]
    generalize den * 2 ^ p = d
    omega
  · have ha : 2 ^ (scale32 (a / den) + 23) * den ≤ a :=
      (Nat.le_div_iff_mul_le hd).1 (le_of_scale32_pos (Nat.zero_lt_of_lt hk))
    have hr : (2 ^ 23 : Int) ≤ rneDiv a (den * 2 ^ scale32 (a / den)) := by
      refine le_rneDiv (by positivity) ?_
      calc (2 ^ 23 : Int) * ((den * 2 ^ scale32 (a / den) : Nat) : Int)
          = ((2 ^ (scale32 (a / den) + 23) * den : Nat) : Int) := by push_cast; ring
        _ ≤ a := Int.ofNat_le.2 ha
    refine iff_of_true ?_ ?_
    · calc (2 ^ (p + 25) : Int) = 2 ^ 23 * 2 ^ (p + 2) := by ring
        _ ≤ rneDiv a (den * 2 ^ scale32 (a / den)) * 2 ^ scale32 (a / den) :=
          mul_le_mul hr (pow_le_pow_right₀ one_le_two hk) (by positivity) (by omega)
    · calc (2 ^ 25 - 1) * (den * 2 ^ p) ≤ 2 ^ 25 * (den * 2 ^ p) := Nat.mul_le_mul_right _ (by omega)
        _ = 2 ^ (p + 25) * den := by ring
        _ ≤ 2 ^ (scale32 (a / den) + 23) * den :=
          Nat.mul_le_mul_right den (Nat.pow_le_pow_right two_pos (by omega))
        _ ≤ a := ha

/-- The magnitude of a result is the rounded magnitude. -/
theorem natAbs_of_fl32 {num v : Int} {den : Nat} (h : fl32 num den = some v) :
    (v.natAbs : Int) = roundedMagnitude num.natAbs den := by
  obtain ⟨-, hv⟩ := fl32_eq_some_iff.1 h
  have h0 : 0 ≤ roundedMagnitude num.natAbs den :=
    mul_nonneg (rneDiv_nonneg (Int.natCast_nonneg _) _) (by positivity)
  split at hv <;> omega

theorem inF32_of_fl32 {num v : Int} {den : Nat} (hd : 0 < den) (h : fl32 num den = some v) :
    inF32 v = true := by
  obtain ⟨c, hc, hm⟩ := roundedMagnitude_eq_mul_pow num.natAbs hd
  rw [← natAbs_of_fl32 h] at hm
  exact inF32_of_natAbs_eq (Int.ofNat_inj.1 hm) hc (fl32_lt_limit h)

theorem fl32_nearest {num v w : Int} {den : Nat} (hd : 0 < den) (h : fl32 num den = some v)
    (hw : inF32 w = true) : |v * den - num| ≤ |w * den - num| := by
  obtain ⟨-, hv⟩ := fl32_eq_some_iff.1 h
  have hnear := fun {u : Int} => roundedMagnitude_nearest num.natAbs hd (w := u)
  generalize roundedMagnitude num.natAbs den = m at hv hnear
  rcases lt_or_ge num 0 with hneg | hpos
  · rw [Int.natCast_natAbs, abs_of_neg hneg] at hnear
    calc |v * den - num| = |m * den - -num| := by rw [hv, if_pos hneg, ← abs_neg]; ring_nf
      _ ≤ |-w * den - -num| := hnear ((inF32_neg w).trans hw)
      _ = |w * den - num| := by rw [← abs_neg]; ring_nf
  · rw [Int.natCast_natAbs, abs_of_nonneg hpos] at hnear
    rw [hv, if_neg (not_lt.2 hpos)]
    exact hnear hw

theorem fl32_tie_even {num v : Int} {den n : Nat} (hd : 0 < den) (h : fl32 num den = some v)
    (htie : 2 * num.natAbs = (2 * n + 1) * 2 ^ scale32 (num.natAbs / den) * den) :
    ∃ m : Nat, v.natAbs = 2 * m * 2 ^ scale32 (num.natAbs / den) := by
  have hv := natAbs_of_fl32 h
  unfold roundedMagnitude at hv
  generalize scale32 (num.natAbs / den) = k at htie hv ⊢
  have heven : rneDiv num.natAbs (den * 2 ^ k) % 2 = 0 := by
    refine rneDiv_even_of_tie (n := n) (by positivity) ?_
    calc (2 * num.natAbs : Int) = (2 * n + 1) * 2 ^ k * den := by exact_mod_cast htie
      _ = (2 * n + 1) * ((den * 2 ^ k : Nat) : Int) := by push_cast; ring
  obtain ⟨c, hc⟩ := Int.eq_ofNat_of_zero_le
    (rneDiv_nonneg (Int.natCast_nonneg num.natAbs) (den * 2 ^ k))
  obtain ⟨m, rfl⟩ : 2 ∣ c := by omega
  rw [hc] at hv
  exact ⟨m, by exact_mod_cast hv⟩

/-- A member of `F32` is its own rounding. -/
theorem fl32_exact {den : Nat} {v : Int} (hd : 0 < den) (hv : inF32 v = true) :
    fl32 (v * den) den = some v := by
  obtain ⟨hlt, hdvd⟩ := inF32_iff.1 hv
  have hpos : (0 : Int) < den := by exact_mod_cast hd
  have hneg : v * den < 0 ↔ v < 0 := by rw [mul_neg_iff]; omega
  rw [fl32_eq_some_iff, Int.natAbs_mul, Int.natAbs_natCast, roundedMagnitude_exact hd hdvd]
  simp only [hneg]
  refine ⟨Int.ofNat_lt.2 hlt, ?_⟩
  split <;> omega

/-- Settles O35: the three parts are `fl32_nearest` with `inF32_of_fl32`, `fl32_tie_even` and `fl32_exact`. -/
theorem roundingIsNearest : Obligations.RoundingIsNearest :=
  ⟨fun _ _ _ hd h => ⟨inF32_of_fl32 hd h, fun _ hw => fl32_nearest hd h hw⟩,
    fun _ _ _ _ hd h htie => fl32_tie_even hd h htie,
    fun _ _ hd hv => fl32_exact hd hv⟩

/-- Settles O36: 2^128 is the power of two the rounded magnitude must reach. -/
theorem overflowThreshold : Obligations.OverflowThreshold := fun num den hd => by
  have hlimit : (limit32 : Int) = 2 ^ (252 + 25) := by
    rw [limit32_eq (p := 252) (q := 25) rfl, Nat.cast_pow, Nat.cast_ofNat]
  have hthreshold : (2 ^ 277 - 2 ^ 252) * den = (2 ^ 25 - 1) * (den * 2 ^ 252) := by
    rw [show 277 = 25 + 252 from rfl, pow_add, ← Nat.sub_one_mul]
    ring
  rw [fl32_eq_none_iff, hlimit, two_pow_le_roundedMagnitude_iff _ _ hd, hthreshold]

end Sys2Proof.Machine
end

section
/-!
Words and values (`00_scope.md` R10). Members of `F32` and finite words meet in the middle: both are an
exponent field below 255, a fraction field and a sign.
-/

namespace Sys2Proof.Machine

theorem expField_eq (b : Word) : expField b = b.toNat / 2 ^ 23 % 2 ^ 8 := by
  simp [expField, BitVec.extractLsb'_toNat, Nat.shiftRight_eq_div_pow]

theorem fracField_eq (b : Word) : fracField b = b.toNat % 2 ^ 23 := by
  simp [fracField, BitVec.extractLsb'_toNat]

theorem getLsbD_31_eq (b : Word) : b.getLsbD 31 = decide (2 ^ 31 ≤ b.toNat) :=
  BitVec.msb_eq_decide b

theorem fracField_lt (b : Word) : fracField b < 2 ^ 23 := by
  rw [fracField_eq]
  omega

theorem expField_lt_of_finite32 {b : Word} (h : finite32 b = true) : expField b < 255 := by
  have hne : expField b ≠ 255 := bne_iff_ne.1 h
  rw [expField_eq] at hne ⊢
  omega

/-- The magnitude that an exponent and a fraction field stand for (R10). -/
def fieldsMagnitude (E M : Nat) : Nat := if E = 0 then M else (2 ^ 23 + M) * 2 ^ (E - 1)

theorem magnitude32_eq (b : Word) : magnitude32 b = fieldsMagnitude (expField b) (fracField b) := rfl

theorem natAbs_dec32 (b : Word) : (dec32 b).natAbs = fieldsMagnitude (expField b) (fracField b) := by
  rw [← magnitude32_eq, dec32]
  split <;> omega

theorem fieldsMagnitude_eq_zero {E M : Nat} : fieldsMagnitude E M = 0 ↔ E = 0 ∧ M = 0 := by
  unfold fieldsMagnitude
  split <;> simp_all

theorem encMagnitude32_fieldsMagnitude (E : Nat) {M : Nat} (hM : M < 2 ^ 23) :
    encMagnitude32 (fieldsMagnitude E M) = E * 2 ^ 23 + M := by
  unfold encMagnitude32
  cases E with
  | zero => rw [fieldsMagnitude, if_pos rfl, if_pos hM, zero_mul, zero_add]
  | succ k =>
    have hmag : fieldsMagnitude (k + 1) M = (2 ^ 23 + M) * 2 ^ k := rfl
    have hpow : 0 < 2 ^ k := by positivity
    have hle : 2 ^ 23 + M ≤ (2 ^ 23 + M) * 2 ^ k := Nat.le_mul_of_pos_right _ hpow
    rw [hmag, if_neg (by omega), scale32_mul_two_pow (by omega) (by omega), Nat.mul_div_cancel _ hpow]
    omega

/-- The members of `F32` are the values of the fields of finite words. -/
theorem inF32_iff_fields {v : Int} :
    inF32 v = true ↔ ∃ E M : Nat, E < 255 ∧ M < 2 ^ 23 ∧ v.natAbs = fieldsMagnitude E M := by
  constructor
  · intro h
    obtain ⟨hlt, c, hc⟩ := inF32_iff.1 h
    rcases Nat.lt_or_ge v.natAbs (2 ^ 23) with hsub | hnorm
    · exact ⟨0, v.natAbs, by omega, hsub, rfl⟩
    · obtain ⟨hlo, hhi⟩ := significand_bounds hnorm hc
      have hk : scale32 v.natAbs ≤ 253 := scale32_le_iff.2 (hlt.trans_eq (limit32_eq rfl))
      refine ⟨scale32 v.natAbs + 1, c - 2 ^ 23, by omega, by omega, ?_⟩
      rw [fieldsMagnitude, if_neg (by omega), Nat.add_sub_cancel, Nat.add_sub_cancel' hlo, mul_comm]
      exact hc
  · rintro ⟨E, M, hE, hM, hv⟩
    cases E with
    | zero =>
      have hvM : v.natAbs = M * 2 ^ 0 := hv.trans (mul_one M).symm
      refine inF32_of_natAbs_eq hvM (by omega) ?_
      rw [hvM, pow_zero, mul_one, limit32_eq (p := 23) (q := 254) rfl, pow_add]
      exact hM.trans_le (Nat.le_mul_of_pos_right _ (by positivity))
    | succ k =>
      have hvk : v.natAbs = (2 ^ 23 + M) * 2 ^ k := hv
      refine inF32_of_natAbs_eq hvk (by omega) ?_
      rw [hvk, limit32_eq (p := 24) (q := 253) rfl, pow_add]
      exact Nat.mul_lt_mul_of_lt_of_le (by omega) (Nat.pow_le_pow_right two_pos (by omega)) (by positivity)

theorem enc32_toNat {v : Int} {E M : Nat} (hE : E < 255) (hM : M < 2 ^ 23)
    (hv : v.natAbs = fieldsMagnitude E M) :
    (enc32 v).toNat = (if v < 0 then 2 ^ 31 else 0) + (E * 2 ^ 23 + M) := by
  rw [enc32, hv, encMagnitude32_fieldsMagnitude E hM, BitVec.toNat_ofNat]
  split <;> omega

theorem enc32_fields {v : Int} {E M : Nat} (hE : E < 255) (hM : M < 2 ^ 23)
    (hv : v.natAbs = fieldsMagnitude E M) :
    expField (enc32 v) = E ∧ fracField (enc32 v) = M ∧ (enc32 v).getLsbD 31 = decide (v < 0) := by
  have hword := enc32_toNat hE hM hv
  rw [expField_eq, fracField_eq, getLsbD_31_eq, decide_eq_decide]
  split at hword <;> omega

theorem finite32_enc32 {v : Int} (hv : inF32 v = true) : finite32 (enc32 v) = true := by
  obtain ⟨E, M, hE, hM, hmag⟩ := inF32_iff_fields.1 hv
  obtain ⟨hexp, -, -⟩ := enc32_fields hE hM hmag
  rw [finite32, hexp, bne_iff_ne]
  omega

theorem dec32_enc32 {v : Int} (hv : inF32 v = true) : dec32 (enc32 v) = v := by
  obtain ⟨E, M, hE, hM, hmag⟩ := inF32_iff_fields.1 hv
  obtain ⟨hexp, hfrac, hsign⟩ := enc32_fields hE hM hmag
  rw [dec32, magnitude32_eq, hexp, hfrac, hsign, ← hmag]
  simp only [decide_eq_true_eq]
  split <;> omega

/-- The one word of a value is never the word of minus zero. -/
theorem enc32_ne_negZero {v : Int} (hv : inF32 v = true) : enc32 v ≠ 0x80000000#32 := by
  intro h
  have hzero : v = 0 := by rw [← dec32_enc32 hv, h]; decide
  rw [hzero] at h
  exact absurd h (by decide)

theorem inF32_dec32 {b : Word} (h : finite32 b = true) : inF32 (dec32 b) = true :=
  inF32_iff_fields.2 ⟨_, _, expField_lt_of_finite32 h, fracField_lt b, natAbs_dec32 b⟩

/-- The sign bit of a word other than minus zero's is the sign of its value. -/
theorem dec32_neg_iff {b : Word} (hb : b ≠ 0x80000000#32) : dec32 b < 0 ↔ 2 ^ 31 ≤ b.toNat := by
  rw [dec32, getLsbD_31_eq]
  simp only [decide_eq_true_eq]
  split
  · next hneg =>
    have hpos : magnitude32 b ≠ 0 := fun hzero => hb <| by
      obtain ⟨hexp, hfrac⟩ := fieldsMagnitude_eq_zero.1 hzero
      rw [expField_eq] at hexp
      rw [fracField_eq] at hfrac
      bv_omega
    exact iff_of_true (by omega) hneg
  · next hpos => exact iff_of_false (by omega) hpos

theorem enc32_dec32 {b : Word} (h : finite32 b = true) (hb : b ≠ 0x80000000#32) : enc32 (dec32 b) = b := by
  refine BitVec.eq_of_toNat_eq ?_
  rw [enc32_toNat (expField_lt_of_finite32 h) (fracField_lt b) (natAbs_dec32 b), expField_eq, fracField_eq]
  simp only [dec32_neg_iff hb]
  split <;> omega

/-- Settles O37, both ways through the exponent and fraction fields. -/
theorem wordsAndValuesAgree : Obligations.WordsAndValuesAgree :=
  ⟨fun _ hv => ⟨finite32_enc32 hv, dec32_enc32 hv, enc32_ne_negZero hv⟩,
    fun _ hb => ⟨inF32_dec32 hb, enc32_dec32 hb⟩⟩

/-- The stored byte is the rounded clamped value when that is a byte. -/
theorem toNat_toU8 {v n : Int} (h0 : 0 ≤ n) (h255 : n ≤ 255) (h : rneDiv (clamp v) one32 = n) :
    ((toU8 v).toNat : Int) = n := by
  rw [toU8, rneInt, h, BitVec.toNat_ofInt]
  omega

theorem clamp_eq (v : Int) : clamp v = min (max v 0) (255 * 2 ^ 149) := rfl

/-- Settles O38: the two ways a fraction rounds to `n`. -/
theorem storedSampleIsNearest : Obligations.StoredSampleIsNearest := by
  intro v n h0 h255
  rw [← clamp_eq]
  exact ⟨fun hnear => toNat_toU8 h0 h255 (rneDiv_eq_of_near hnear),
    fun htie heven => toNat_toU8 h0 h255 (rneDiv_eq_of_tie one32_pos htie heven)⟩

end Sys2Proof.Machine
end

section
/-!
No step changes the platform's `FMEM_SIZE` (`00_scope.md` R6). `Completes` packages how a property passes
through the checks of a command to its one step, so that each command's lemma only names its last write.
-/

namespace Sys2Proof.Machine

/-! ### What a command's computation completes with -/

/-- Whatever the computation of a command completes with satisfies `P`. -/
def Completes (P : State → Prop) (r : Except FaultCode State) : Prop := ∀ u, r = .ok u → P u

theorem Completes.ok {P : State → Prop} {u : State} (h : P u) : Completes P (.ok u) := fun _ hu =>
  Except.ok.inj hu ▸ h

theorem Completes.error (P : State → Prop) (c : FaultCode) : Completes P (.error c) := fun _ hu => nomatch hu

/-- A check before the rest of a computation. -/
theorem Completes.bind {P : State → Prop} {α : Type} {x : Except FaultCode α} {f : α → Except FaultCode State}
    (h : ∀ a, x = .ok a → Completes P (f a)) : Completes P (x >>= f) := fun u hu => by
  obtain ⟨a, hx, hf⟩ := except_bind_ok.1 hu
  exact h a hx u hf

/-- A property of the states a command completes with and of its fault entries holds after its one step. -/
theorem Completes.conclude {P : State → Prop} {s t : State} {r : Except FaultCode State}
    (hr : Completes (fun u => P u.complete) r) (hfault : ∀ c, P (s.takeFault c)) (h : s.conclude r = .next t) :
    P t := by
  obtain ⟨u, hu, rfl⟩ | ⟨c, -, rfl⟩ := State.conclude_eq_next.1 h
  · exact hr u hu
  · exact hfault c

/-! ### The commands keep the platform's size -/

/-- The state has the same `FMEM_SIZE` as `s`. -/
def SameSize (s t : State) : Prop := t.fmemSize = s.fmemSize

theorem State.conclude_fmemSize {s t : State} {r : Except FaultCode State} (hr : Completes (SameSize s) r)
    (h : s.conclude r = .next t) : t.fmemSize = s.fmemSize :=
  Completes.conclude (P := SameSize s) hr s.takeFault_fmemSize h

theorem State.unaryBlock_sameSize (s : State) (rd ra : Sel) (f : Block → Option Block) :
    Completes (SameSize s) (s.unaryBlock rd ra f) :=
  .bind fun d _ => .bind fun _ _ => .bind fun _ _ => .bind fun Y _ => .ok (s.writeBlock_fmemSize d Y)

theorem State.matrixBlock_sameSize (s : State) (rd ra qk : Sel) (f : Block → Block → Option Block) :
    Completes (SameSize s) (s.matrixBlock rd ra qk f) :=
  .bind fun d _ => .bind fun _ _ => .bind fun _ _ => .bind fun _ _ => .bind fun _ _ => .bind fun Y _ =>
    .ok (s.writeBlock_fmemSize d Y)

theorem State.binaryBlock_sameSize (s : State) (rd ra rb : Sel) (f : Block → Block → Option Block) :
    Completes (SameSize s) (s.binaryBlock rd ra rb f) :=
  .bind fun d _ => .bind fun _ _ => .bind fun _ _ => .bind fun _ _ => .bind fun _ _ => .bind fun Y _ =>
    .ok (s.writeBlock_fmemSize d Y)

/-- FMEM's bytes, `BDEPTH` and `STATUS` may change; the size is the platform's. Stated for any bytes, so that no
proof compares what a command stores. -/
theorem State.fmemSize_of_stores (s : State) (m : Memory) (d : Word) (f : Status) :
    State.fmemSize { s with fmem := m, bdepth := d, status := f } = s.fmemSize := rfl

theorem execBitdep_fmemSize {ra : Sel} {s t : State} : execBitdep ra s = .next t → t.fmemSize = s.fmemSize :=
  State.conclude_fmemSize <| .bind fun _ _ => .bind fun _ _ => .ok (s.fmemSize_of_stores _ _ _)

theorem execLdb_fmemSize {rd fs : Sel} {s t : State} : execLdb rd fs s = .next t → t.fmemSize = s.fmemSize :=
  State.conclude_fmemSize <| .bind fun d _ => .bind fun _ _ => .bind fun _ _ => .ok (s.writeBlock_fmemSize d _)

theorem execStb_fmemSize {fd rs : Sel} {s t : State} : execStb fd rs s = .next t → t.fmemSize = s.fmemSize :=
  State.conclude_fmemSize <| .bind fun _ _ => .bind fun _ _ => .bind fun _ _ => .bind fun _ _ =>
    .ok (s.fmemSize_of_stores _ _ _)

theorem execQmfill_fmemSize {qk : Sel} {scale : BitVec 16} {s t : State} :
    execQmfill qk scale s = .next t → t.fmemSize = s.fmemSize :=
  State.conclude_fmemSize <| .bind fun k _ => by
    dsimp only
    split
    · exact .bind fun _ h => nomatch h
    · exact .ok (s.fillMatrix_fmemSize k _)

theorem execBasef_fmemSize {fd fs qk : Sel} {s t : State} :
    execBasef fd fs qk s = .next t → t.fmemSize = s.fmemSize :=
  State.conclude_fmemSize <| .bind fun _ _ => .bind fun _ _ => .bind fun _ _ => .bind fun _ _ => .bind fun _ _ =>
    .bind fun _ _ => .ok (s.fmemSize_of_stores _ _ _)

theorem execEnhf_fmemSize {fd fo fb qk : Sel} {s t : State} :
    execEnhf fd fo fb qk s = .next t → t.fmemSize = s.fmemSize :=
  State.conclude_fmemSize <| .bind fun _ _ => .bind fun _ _ => .bind fun _ _ => .bind fun _ _ => .bind fun _ _ =>
    .bind fun _ _ => .bind fun _ _ => .ok (s.fmemSize_of_stores _ _ _)

theorem execLinit_fmemSize {s t : State} : execLinit s = .next t → t.fmemSize = s.fmemSize :=
  State.conclude_fmemSize <| by
    split
    · exact .ok rfl
    · exact .error _ _

theorem State.openPorts_fmemSize (s : State) : s.openPorts.fmemSize = s.fmemSize := by
  unfold State.openPorts
  split <;> rfl

theorem execLopen_fmemSize {s t : State} (h : execLopen s = .next t) : t.fmemSize = s.fmemSize := by
  unfold execLopen at h
  split at h
  · cases h; exact s.openPorts_fmemSize
  · split at h <;> cases h <;> rfl

theorem State.pairStep_fmemSize (s : State) : s.pairStep.fmemSize = s.fmemSize := by
  unfold State.pairStep
  split <;> rfl

theorem execLstep_fmemSize {s t : State} (h : execLstep s = .next t) : t.fmemSize = s.fmemSize := by
  unfold execLstep at h
  split at h
  · cases h; rfl
  · split at h <;> cases h
    · exact s.pairStep_fmemSize
    · rfl

theorem execLrun_fmemSize {s t : State} (h : execLrun s = .next t) : t.fmemSize = s.fmemSize := by
  unfold execLrun at h
  split at h
  · cases h; rfl
  · split at h
    · split at h <;> cases h <;> exact s.pairStep_fmemSize
    · cases h; rfl

theorem exec_fmemSize {i : Instr} {s t : State} (h : exec i s = .next t) : t.fmemSize = s.fmemSize := by
  cases i with
  | nop => cases h; rfl
  | clrerr => cases h; rfl
  | sreset => cases h; rfl
  | fdct => exact State.conclude_fmemSize (s.unaryBlock_sameSize _ _ _) h
  | idct => exact State.conclude_fmemSize (s.unaryBlock_sameSize _ _ _) h
  | quant => exact State.conclude_fmemSize (s.matrixBlock_sameSize _ _ _ _) h
  | dequant => exact State.conclude_fmemSize (s.matrixBlock_sameSize _ _ _ _) h
  | clip => exact State.conclude_fmemSize (s.unaryBlock_sameSize _ _ _) h
  | sub => exact State.conclude_fmemSize (s.binaryBlock_sameSize _ _ _ _) h
  | add => exact State.conclude_fmemSize (s.binaryBlock_sameSize _ _ _ _) h
  | bitdep => exact execBitdep_fmemSize h
  | ldb => exact execLdb_fmemSize h
  | stb => exact execStb_fmemSize h
  | qmfill => exact execQmfill_fmemSize h
  | basef => exact execBasef_fmemSize h
  | enhf => exact execEnhf_fmemSize h
  | linit => exact execLinit_fmemSize h
  | lopen => exact execLopen_fmemSize h
  | lstep => exact execLstep_fmemSize h
  | lrun => exact execLrun_fmemSize h

/-! ### Every agent keeps the platform's size -/

theorem State.unitTurn_fmemSize {s t : State} (h : s.unitTurn = .next t) : t.fmemSize = s.fmemSize := by
  unfold State.unitTurn at h
  split at h
  · cases h; rfl
  · next w _ =>
    unfold State.runWord at h
    split at h
    · exact exec_fmemSize h
    · cases h; rfl

theorem State.hrsRead_fmemSize {s t : State} {width : AccessWidth} {off : Nat} (h : s.hrsRead width off = .next t) :
    t.fmemSize = s.fmemSize := by
  unfold State.hrsRead at h
  split at h <;> cases h
  cases s.hrsValue (hrsReg off) <;> rfl

theorem State.issue_fmemSize (s : State) (w : Word) : (s.issue w).fmemSize = s.fmemSize := by
  unfold State.issue
  split
  · rfl
  · split <;> rfl

theorem State.writeReg_fmemSize (s : State) (r : HrsReg) (w : Word) : (s.writeReg r w).fmemSize = s.fmemSize := by
  cases r <;> rfl

theorem State.hrsWrite_fmemSize {s t : State} {width : AccessWidth} {off : Nat} {w : Word}
    (h : s.hrsWrite width off w = .next t) : t.fmemSize = s.fmemSize := by
  unfold State.hrsWrite at h
  split at h
  · split at h
    · split at h <;> cases h
      · rfl
      · exact s.issue_fmemSize w
    · split at h <;> cases h
      · rfl
      · exact s.writeReg_fmemSize _ w
  · cases h

theorem State.fmemRead_fmemSize {s t : State} {width : AccessWidth} {a : Nat} (h : s.fmemRead width a = .next t) :
    t.fmemSize = s.fmemSize := by
  unfold State.fmemRead at h
  split at h
  · split at h <;> cases h <;> rfl
  · cases h

theorem State.fmemWrite_fmemSize {s t : State} {width : AccessWidth} {a : Nat} {v : Byte}
    (h : s.fmemWrite width a v = .next t) : t.fmemSize = s.fmemSize := by
  unfold State.fmemWrite at h
  split at h
  · split at h <;> cases h <;> rfl
  · cases h

theorem State.attach_fmemSize {s t : State} {a b : InPort} {l h f : OutPort} (ht : s.attach a b l h f = .next t) :
    t.fmemSize = s.fmemSize := by
  unfold State.attach at ht
  split at ht <;> cases ht
  rfl

theorem State.agentStep_fmemSize {s t : State} {ev : Event} (h : s.agentStep ev = .next t) :
    t.fmemSize = s.fmemSize := by
  cases ev with
  | unit => exact State.unitTurn_fmemSize h
  | hrsRead => exact State.hrsRead_fmemSize h
  | hrsWrite => exact State.hrsWrite_fmemSize h
  | fmemRead => exact State.fmemRead_fmemSize h
  | fmemWrite => exact State.fmemWrite_fmemSize h
  | resetInput => cases h; rfl
  | producerReady port => cases h; cases port <;> rfl
  | attach => exact State.attach_fmemSize h

/-! ### The step, by whose turn it is -/

theorem step_of_agenda_nil {s : State} (h : s.agenda = []) : step s = s.unitTurn := by
  unfold step State.nextTurn
  rw [h]

theorem step_of_agenda_cons {s : State} {ev : Event} {rest : List Event} (h : s.agenda = ev :: rest) :
    step s = State.agentStep { s with agenda := rest } ev := by
  unfold step State.nextTurn
  rw [h]

theorem step_fmemSize {s t : State} (h : step s = .next t) : t.fmemSize = s.fmemSize := by
  cases hag : s.agenda with
  | nil => exact State.unitTurn_fmemSize ((step_of_agenda_nil hag).symm.trans h)
  | cons ev rest =>
    exact State.agentStep_fmemSize (s := { s with agenda := rest }) ((step_of_agenda_cons hag).symm.trans h)

/-- Settles O54: `FMEM_SIZE`'s type gives the range, `step_fmemSize` the rest. -/
theorem stepKeepsPlatform : Obligations.StepKeepsPlatform := fun s =>
  ⟨s.fmemSize_pos, s.fmemSize_le, fun _ => step_fmemSize⟩

end Sys2Proof.Machine
end

section
/-!
The steps of the host, the producers and the environment (`00_scope.md` R7, `10_state.md` R50 to R52).
-/

namespace Sys2Proof.Machine

theorem State.mayAttach_iff {s : State} :
    s.mayAttach = true ↔ (s.lstat.state = .idle ∨ s.lstat.state = .closed) ∧ s.status.busy = false := by
  simp [State.mayAttach]

theorem State.attach_eq_next {s : State} (hs : s.mayAttach = true) (a b : InPort) (l h f : OutPort) :
    s.attach a b l h f = .next { s with
      ina := a.attached, inb := b.attached, outl := l.attached, outh := h.attached, outf := f.attached } :=
  if_pos hs

theorem State.attach_eq_refused {s : State} (hs : ¬ s.mayAttach = true) (a b : InPort) (l h f : OutPort) :
    s.attach a b l h f = .refused .portsReplaced := if_neg hs

/-- Settles O49: the agent at the head of the agenda steps with it removed; an attachment by whether it may. -/
theorem otherAgentsSteps : Obligations.OtherAgentsSteps := by
  intro s rest
  refine ⟨fun _ _ _ => step_of_agenda_cons, fun _ _ => step_of_agenda_cons, fun _ _ _ => step_of_agenda_cons,
    fun _ _ => step_of_agenda_cons, step_of_agenda_cons, step_of_agenda_cons, fun a b l h f hag => ⟨?_, ?_⟩⟩
  · intro hstate hbusy
    exact (step_of_agenda_cons hag).trans
      (State.attach_eq_next (s := { s with agenda := rest }) (State.mayAttach_iff.2 ⟨hstate, hbusy⟩) a b l h f)
  · intro hrun
    exact (step_of_agenda_cons hag).trans
      (State.attach_eq_refused (s := { s with agenda := rest }) (fun hs => hrun (State.mayAttach_iff.1 hs)) a b l h f)

end Sys2Proof.Machine
end

section
/-!
Decoding inverted (`30_encoding.md` R81, R86, R87): a word that decodes is the word of its command, so it matches
a row of the opcode table.
-/

namespace Sys2Proof

theorem accept_eq_ok {selectors zeros : Bool} {i j : Instr} :
    accept selectors zeros i = .ok j ↔ selectors = true ∧ zeros = true ∧ i = j := by
  cases selectors <;> cases zeros <;> simp [accept]

/-! ### The fields of a word, as numbers (`30_encoding.md` R81) -/

theorem extractLsb'_toNat_eq (w : Word) (start len : Nat) :
    (w.extractLsb' start len).toNat = w.toNat / 2 ^ start % 2 ^ len := by
  rw [BitVec.extractLsb'_toNat, Nat.shiftRight_eq_div_pow]

theorem opc_toNat (w : Word) : (Word.opc w).toNat = w.toNat / 2 ^ 24 % 2 ^ 8 := extractLsb'_toNat_eq w 24 8

theorem fieldD_toNat (w : Word) : (Word.fieldD w).toNat = w.toNat / 2 ^ 20 % 2 ^ 4 := extractLsb'_toNat_eq w 20 4

theorem fieldA_toNat (w : Word) : (Word.fieldA w).toNat = w.toNat / 2 ^ 16 % 2 ^ 4 := extractLsb'_toNat_eq w 16 4

theorem fieldB_toNat (w : Word) : (Word.fieldB w).toNat = w.toNat / 2 ^ 12 % 2 ^ 4 := extractLsb'_toNat_eq w 12 4

theorem fieldQ_toNat (w : Word) : (Word.fieldQ w).toNat = w.toNat / 2 ^ 0 % 2 ^ 4 := extractLsb'_toNat_eq w 0 4

theorem imm12_toNat (w : Word) : (Word.imm12 w).toNat = w.toNat / 2 ^ 0 % 2 ^ 12 := extractLsb'_toNat_eq w 0 12

theorem imm16_toNat (w : Word) : (Word.imm16 w).toNat = w.toNat / 2 ^ 0 % 2 ^ 16 := extractLsb'_toNat_eq w 0 16

theorem enhfZero_toNat (w : Word) : (Word.enhfZero w).toNat = w.toNat / 2 ^ 4 % 2 ^ 8 := extractLsb'_toNat_eq w 4 8

/-- `IMM16` is `B` and `IMM12`. -/
theorem imm16_eq_zero {w : Word} (h : Word.imm16 w = 0) : Word.fieldB w = 0 ∧ Word.imm12 w = 0 := by
  have hzero : w.toNat / 2 ^ 0 % 2 ^ 16 = 0 := (imm16_toNat w).symm.trans (congrArg BitVec.toNat h)
  refine ⟨BitVec.eq_of_toNat_eq ((fieldB_toNat w).trans ?_), BitVec.eq_of_toNat_eq ((imm12_toNat w).trans ?_)⟩
  · change _ = 0
    omega
  · change _ = 0
    omega

/-- `IMM12` of ENHF is its matrix selector below zeros (`30_encoding.md` R84). -/
theorem imm12_of_enhfZero {w : Word} (h : Word.enhfZero w = 0) : Word.imm12 w = 0#8 ++ Word.fieldQ w := by
  have hzero : w.toNat / 2 ^ 4 % 2 ^ 8 = 0 := (enhfZero_toNat w).symm.trans (congrArg BitVec.toNat h)
  refine BitVec.eq_of_toNat_eq ?_
  rw [BitVec.toNat_append, imm12_toNat, fieldQ_toNat, BitVec.toNat_ofNat, Nat.zero_mod, Nat.zero_shiftLeft,
    Nat.zero_or]
  omega

/-! ### The word of each format, put together again from its fields -/

theorem formatR_toNat (opc : BitVec 8) (d a b : Sel) (imm : BitVec 12) :
    (formatR opc d a b imm).toNat =
      opc.toNat * 2 ^ 24 + d.toNat * 2 ^ 20 + a.toNat * 2 ^ 16 + b.toNat * 2 ^ 12 + imm.toNat := by
  simp only [formatR, BitVec.toNat_append]
  rw [← Nat.shiftLeft_add_eq_or_of_lt d.isLt, ← Nat.shiftLeft_add_eq_or_of_lt a.isLt,
    ← Nat.shiftLeft_add_eq_or_of_lt b.isLt, ← Nat.shiftLeft_add_eq_or_of_lt imm.isLt]
  simp only [Nat.shiftLeft_eq]
  omega

theorem formatR_fields (w : Word) :
    formatR (Word.opc w) (Word.fieldD w) (Word.fieldA w) (Word.fieldB w) (Word.imm12 w) = w := by
  refine BitVec.eq_of_toNat_eq ?_
  rw [formatR_toNat, opc_toNat, fieldD_toNat, fieldA_toNat, fieldB_toNat, imm12_toNat]
  have := w.isLt
  omega

theorem formatZ_toNat (opc : BitVec 8) : (formatZ opc).toNat = opc.toNat * 2 ^ 24 := by
  rw [formatZ, BitVec.toNat_append, Nat.shiftLeft_eq]
  exact Nat.or_zero _

theorem formatI_toNat (opc : BitVec 8) (d : Sel) (imm : BitVec 16) :
    (formatI opc d imm).toNat = opc.toNat * 2 ^ 24 + d.toNat * 2 ^ 20 + imm.toNat := by
  simp only [formatI, BitVec.toNat_append]
  rw [← Nat.shiftLeft_add_eq_or_of_lt d.isLt, ← Nat.shiftLeft_add_eq_or_of_lt (0#4).isLt,
    ← Nat.shiftLeft_add_eq_or_of_lt imm.isLt]
  simp only [Nat.shiftLeft_eq, BitVec.toNat_ofNat]
  omega

section
variable {w : Word} {opc : BitVec 8} (hop : (Word.opc w).toNat = opc.toNat)
include hop

theorem formatZ_of_zeros (hz : (w.extractLsb' 0 24 == 0) = true) : formatZ opc = w := by
  have hzero : w.toNat / 2 ^ 0 % 2 ^ 24 = 0 :=
    (extractLsb'_toNat_eq w 0 24).symm.trans (congrArg BitVec.toNat (eq_of_beq hz))
  refine BitVec.eq_of_toNat_eq ?_
  rw [formatZ_toNat, ← hop, opc_toNat]
  have := w.isLt
  omega

theorem formatR_of_imm12 (hz : (Word.imm12 w == 0) = true) :
    formatR opc (Word.fieldD w) (Word.fieldA w) (Word.fieldB w) 0 = w := by
  rw [← BitVec.eq_of_toNat_eq hop, ← eq_of_beq hz, formatR_fields]

theorem formatR_of_imm16 (hz : (Word.imm16 w == 0) = true) :
    formatR opc (Word.fieldD w) (Word.fieldA w) 0 0 = w := by
  obtain ⟨hB, himm⟩ := imm16_eq_zero (eq_of_beq hz)
  have hR := formatR_of_imm12 hop (beq_iff_eq.2 himm)
  rwa [hB] at hR

theorem formatR_of_fieldD_imm16 (hz : (Word.fieldD w == 0 && Word.imm16 w == 0) = true) :
    formatR opc 0 (Word.fieldA w) 0 0 = w := by
  obtain ⟨hD, himm⟩ := Bool.and_eq_true_iff.1 hz
  have hR := formatR_of_imm16 hop himm
  rwa [eq_of_beq hD] at hR

theorem formatR_of_enhfZero (hz : (Word.enhfZero w == 0) = true) :
    formatR opc (Word.fieldD w) (Word.fieldA w) (Word.fieldB w) (0#8 ++ Word.fieldQ w) = w := by
  rw [← BitVec.eq_of_toNat_eq hop, ← imm12_of_enhfZero (eq_of_beq hz), formatR_fields]

theorem formatI_of_fieldA (hz : (Word.fieldA w == 0) = true) :
    formatI opc (Word.fieldD w) (Word.imm16 w) = w := by
  have hzero : w.toNat / 2 ^ 16 % 2 ^ 4 = 0 :=
    (fieldA_toNat w).symm.trans (congrArg BitVec.toNat (eq_of_beq hz))
  refine BitVec.eq_of_toNat_eq ?_
  rw [formatI_toNat, ← hop, opc_toNat, fieldD_toNat, imm16_toNat]
  have := w.isLt
  omega

end

/-! ### A word that decodes -/

/-- A word that decodes is the word of its command, whose selectors are in range. -/
theorem encode_of_decode {w : Word} {i : Instr} (h : decode w = .ok i) : encode i = w ∧ i.wellFormed = true := by
  unfold decode at h
  split at h
  case h_21 => cases h
  all_goals
    rename_i hop
    obtain ⟨hsel, hz, rfl⟩ := accept_eq_ok.1 h
    refine ⟨?_, hsel⟩
  case h_1 | h_2 | h_3 | h_17 | h_18 | h_19 | h_20 => exact formatZ_of_zeros hop hz
  case h_4 | h_5 | h_8 | h_12 | h_13 => exact formatR_of_imm16 hop hz
  case h_6 | h_7 | h_9 | h_10 | h_15 => exact formatR_of_imm12 hop hz
  case h_11 => exact formatR_of_fieldD_imm16 hop hz
  case h_14 => exact formatI_of_fieldA hop hz
  case h_16 => exact formatR_of_enhfZero hop hz

theorem row_mem_opcodeTable (i : Instr) : i.row ∈ opcodeTable := by
  cases i <;> simp [opcodeTable, Instr.row]

theorem encode_fits_row (i : Instr) : Laws.EncodeFitsRow.Statement i := by
  cases i with
  | nop => exact Laws.EncodeFitsRow.nop
  | clrerr => exact Laws.EncodeFitsRow.clrerr
  | sreset => exact Laws.EncodeFitsRow.sreset
  | fdct rd ra => exact Laws.EncodeFitsRow.fdct rd ra
  | idct rd ra => exact Laws.EncodeFitsRow.idct rd ra
  | quant rd ra qk => exact Laws.EncodeFitsRow.quant rd ra qk
  | dequant rd ra qk => exact Laws.EncodeFitsRow.dequant rd ra qk
  | clip rd ra => exact Laws.EncodeFitsRow.clip rd ra
  | sub rd ra rb => exact Laws.EncodeFitsRow.sub rd ra rb
  | add rd ra rb => exact Laws.EncodeFitsRow.add rd ra rb
  | bitdep ra => exact Laws.EncodeFitsRow.bitdep ra
  | ldb rd fs => exact Laws.EncodeFitsRow.ldb rd fs
  | stb fd rs => exact Laws.EncodeFitsRow.stb fd rs
  | qmfill qk scale => exact Laws.EncodeFitsRow.qmfill qk scale
  | basef fd fs qk => exact Laws.EncodeFitsRow.basef fd fs qk
  | enhf fd fo fb qk => exact Laws.EncodeFitsRow.enhf fd fo fb qk
  | linit => exact Laws.EncodeFitsRow.linit
  | lopen => exact Laws.EncodeFitsRow.lopen
  | lstep => exact Laws.EncodeFitsRow.lstep
  | lrun => exact Laws.EncodeFitsRow.lrun

/-- A word that decodes matches a row of the opcode table. -/
theorem row_of_decode {w : Word} {i : Instr} (h : decode w = .ok i) :
    i.row ∈ opcodeTable ∧ w &&& i.row.mask = i.row.matchWord := by
  obtain ⟨rfl, hwf⟩ := encode_of_decode h
  exact ⟨row_mem_opcodeTable i, encode_fits_row i hwf⟩

/-- A word that matches no row is rejected (`30_encoding.md` R87). -/
theorem decode_eq_error {w : Word} (h : ∀ row ∈ opcodeTable, w &&& row.mask ≠ row.matchWord) :
    ∃ r, decode w = .error r := by
  cases hd : decode w with
  | error r => exact ⟨r, rfl⟩
  | ok i =>
    obtain ⟨hrow, hmatch⟩ := row_of_decode hd
    exact absurd hmatch (h _ hrow)

/-- Only its one legal word decodes to SRESET (`30_encoding.md` R88). -/
theorem eq_sresetWord_of_decode {w : Word} (h : decode w = .ok .sreset) : w = Config.sresetWord :=
  (encode_of_decode h).1.symm

/-- Only its one legal word decodes to LOPEN (`45_combiner.md` R186). -/
theorem eq_lopenWord_of_decode {w : Word} (h : decode w = .ok .lopen) : w = Config.lopenWord :=
  (encode_of_decode h).1.symm

theorem decode_lopenWord : decode Config.lopenWord = .ok .lopen := by decide

end Sys2Proof
end

section
/-!
The bit-depth estimate stays in the range of `BDEPTH` (`10_state.md` R34, `44_residual_enh.md` R164): the words of
a finite block and the levels of QUANT are below 2^128 in magnitude.
-/

namespace Sys2Proof.Machine

/-- Every element is below 2^128 in magnitude. -/
def Block.Below (X : Block) : Prop := ∀ e : Fin 64, X[e].natAbs < limit32

/-- The word is in the range of `BDEPTH` (`10_state.md` R34). -/
def DepthWord (d : Word) : Prop := -148 ≤ d.toInt ∧ d.toInt ≤ 128

theorem foldl_max_natAbs_lt {l : List Int} {m b : Nat} (hm : m < b) (hl : ∀ x ∈ l, x.natAbs < b) :
    l.foldl (fun m x => max m x.natAbs) m < b := by
  induction l generalizing m with
  | nil => exact hm
  | cons x l ih =>
    exact ih (max_lt hm (hl x List.mem_cons_self)) fun y hy => hl y (List.mem_cons_of_mem x hy)

theorem maxMagnitude_lt {X : Block} (hX : Block.Below X) : maxMagnitude X < limit32 := by
  refine foldl_max_natAbs_lt (by unfold limit32; positivity) fun x hx => ?_
  obtain ⟨i, hi, rfl⟩ := List.getElem_of_mem hx
  simpa using hX ⟨i, by simpa using hi⟩

theorem bitdepth_range {X : Block} (hX : Block.Below X) : -148 ≤ bitdepth X ∧ bitdepth X ≤ 128 := by
  unfold bitdepth
  split
  · omega
  · have hscale : scale32 (maxMagnitude X) ≤ 253 :=
      scale32_le_iff.2 ((maxMagnitude_lt hX).trans_eq (limit32_eq rfl))
    unfold scale32 at hscale
    omega

theorem depthWord_bitdepth {X : Block} (hX : Block.Below X) : DepthWord (BitVec.ofInt 32 (bitdepth X)) := by
  have hrange := bitdepth_range hX
  unfold DepthWord
  rw [BitVec.toInt_ofInt, Int.bmod_eq_of_le (by omega) (by omega)]
  exact hrange

theorem State.blockValues_below {s : State} {k : Fin 4} (h : s.blockFinite k = true) :
    Block.Below (s.blockValues k) := fun e => by
  have hfin : finite32 s.br[k][e] = true := (of_decide_eq_true h) e
  simpa [State.blockValues] using (inF32_iff.1 (inF32_dec32 hfin)).1

/-- A member of `F32` is at most the largest one, the integer `(2^24 - 1) * 2^104`. -/
theorem natAbs_le_of_inF32 {v : Int} (h : inF32 v = true) : v.natAbs ≤ 16777215 * 2 ^ 104 * one32 := by
  obtain ⟨E, M, hE, hM, hv⟩ := inF32_iff_fields.1 h
  have hmax : 16777215 * 2 ^ 253 = 16777215 * 2 ^ 104 * one32 := by rw [one32, mul_assoc, ← pow_add]
  rw [hv, fieldsMagnitude, ← hmax]
  split
  · exact le_trans (by omega) (Nat.le_mul_of_pos_right 16777215 (by positivity))
  · exact Nat.mul_le_mul (by omega) (Nat.pow_le_pow_right two_pos (by omega))

/-- A level of QUANT is below 2^128: its quotient is at most the largest integer of `F32`, and so is the integer
nearest to it. -/
theorem quantLane_lt {x m q : Int} (hm : 0 < m) (h : quantLane x m = some q) : q.natAbs < limit32 := by
  unfold quantLane at h
  split at h
  · cases h
  · next t ht =>
    cases h
    have habs : |t| ≤ 16777215 * 2 ^ 104 * one32 := by
      rw [← Int.natCast_natAbs]
      exact_mod_cast natAbs_le_of_inF32 (inF32_of_fl32 (by omega) ht)
    obtain ⟨hlo, hhi⟩ := abs_le.1 habs
    have hround : -(16777215 * 2 ^ 104) ≤ rneInt t ∧ rneInt t ≤ 16777215 * 2 ^ 104 :=
      ⟨le_rneDiv one32_pos (by rwa [neg_mul]), rneDiv_le one32_pos hhi⟩
    have hlimit : limit32 = 2 ^ 128 * one32 := by rw [limit32_eq (p := 128) (q := 149) rfl, pow_add, one32]
    rw [ofInteger, Int.natAbs_mul, Int.natAbs_natCast, hlimit]
    exact Nat.mul_lt_mul_of_pos_right (by omega) one32_pos

theorem quantBlock_below {X Q : Block} {s : State} {k : Fin 2} (hM : s.matrixLegal k = true)
    (h : quantBlock X (s.matrixValues k) = some Q) : Block.Below Q := fun e => by
  have hpos : 0 < dec32 s.qm[k][e] := ((of_decide_eq_true hM) e).2
  refine quantLane_lt (m := (s.matrixValues k)[e]) ?_ (lanes_eq_some.1 h e)
  simpa [State.matrixValues] using hpos

end Sys2Proof.Machine
end

section
/-!
What a command can do, said once for all twenty: `Effect s i t` lists the outcomes of `i` in `s`, and `exec_effect`
says there is no other. What commands keep and change is read off it, case by case.
-/

namespace Sys2Proof.Machine

/-! ### The bytes a command stores lie in FMEM (`20_memory.md` R68) -/

theorem State.curCh_lt (s : State) : s.curCh < 4 := BitVec.isLt _

theorem State.storeCells_bound {s : State} {k : Fin 4} (h : s.blockCheck k = .ok ()) (X : Block) :
    ∀ c ∈ s.storeCells k s.curCh s.curBy s.curBx X, c.1 < s.fmemSize := by
  intro c hc
  obtain ⟨-, -, hch, hx, hy, hfit⟩ := State.blockCheck_ok.1 h
  obtain ⟨e, -, rfl⟩ := List.mem_map.1 hc
  have hch4 := s.curCh_lt
  obtain ⟨-, hlt⟩ := State.addr_bounds (s := s) (k := k) (ch := s.curCh) (y := 8 * s.curBy + e / 8)
    (x := 8 * s.curBx + e % 8) (by omega) (by omega) (by omega)
  exact hlt.trans_le hfit

theorem State.frameCells_bound {s : State} {d src : Fin 4} {ks : List (Fin 4)} {rs : List (BlockPos × Block)}
    (h : s.frameCheck d ks = .ok ()) (hrs : ∀ r ∈ rs, r.1 ∈ s.blockWalk) :
    ∀ c ∈ s.edgeCells d src ++ s.frameCells d rs, c.1 < s.fmemSize := by
  intro c hc
  obtain ⟨-, -, hfit, -⟩ := State.frameCheck_ok.1 h
  obtain ⟨-, hlt⟩ := State.frame_cells_bounds hrs c hc
  exact hlt.trans_le (hfit d List.mem_cons_self)

/-! ### The block results of the frame commands -/

theorem mem_of_settleList_map {α β : Type} {l : List α} {f : α → Option β} {ys : List β} {y : β}
    (h : settleList (l.map f) = some ys) (hy : y ∈ ys) : ∃ p ∈ l, f p = some y := by
  have hmem : some y ∈ l.map f := by
    rw [settleList_eq_some.1 h]
    exact List.mem_map_of_mem hy
  exact List.mem_map.1 hmem

theorem State.baseResults_mem {s : State} {src : Fin 4} {M : Block} {rs : List (BlockPos × Block)}
    (h : s.baseResults src M = some rs) : ∀ r ∈ rs, r.1 ∈ s.blockWalk := by
  intro r hr
  obtain ⟨p, hp, hres⟩ := mem_of_settleList_map h hr
  split at hres <;> cases hres
  exact hp

/-- The results of ENHF are those of full blocks of the frame, and their levels stay below 2^128. -/
theorem State.enhResults_mem {s : State} {orig base : Fin 4} {q : Fin 2} {rs : List (BlockPos × Block × Block)}
    (hM : s.matrixLegal q = true) (h : s.enhResults orig base (s.matrixValues q) = some rs) :
    ∀ r ∈ rs, r.1 ∈ s.blockWalk ∧ Block.Below r.2.1 := by
  intro r hr
  obtain ⟨p, hp, hres⟩ := mem_of_settleList_map h hr
  split at hres
  · cases hres
  · next Q E henh =>
    cases hres
    obtain ⟨_, _, _, _, hQ, _⟩ := enhPath_eq_some.1 henh
    exact ⟨hp, quantBlock_below hM hQ⟩

theorem State.enhDepth_range {s : State} {rs : List (BlockPos × Block × Block)}
    (h : ∀ r ∈ rs, Block.Below r.2.1) : s.enhDepth rs = s.bdepth ∨ DepthWord (s.enhDepth rs) := by
  unfold State.enhDepth
  split
  · exact .inl rfl
  · next r hr => exact .inr (depthWord_bitdepth (h r (List.mem_of_getLast? hr)))

/-! ### The outcomes of a command -/

/-- The state `t` is an outcome of the command `i` in the state `s`. -/
inductive Effect (s : State) : Instr → State → Prop
  /-- A fault. LOPEN has none in its second phase. -/
  | fault {i : Instr} (c : FaultCode) (hi : i = .lopen → s.lstat.state ≠ .opening) : Effect s i (s.takeFault c)
  /-- A hold: an input is not ready (`45_combiner.md` R190, R191). -/
  | hold {i : Instr} (hi : i = .lstep ∨ i = .lrun) : Effect s i s
  /-- NOP (`46_system.md` R200). -/
  | nop : Effect s .nop s.complete
  /-- CLRERR (`46_system.md` R201). -/
  | clrerr : Effect s .clrerr s.clearFault.complete
  /-- SRESET (`46_system.md` R202). -/
  | sreset : Effect s .sreset s.resetOperation
  /-- A block register is written whole (`41_tqu.md` R111). -/
  | block {i : Instr} (hi : isCombinerCommand i = false) (d : Fin 4) (Y : Block) :
      Effect s i (s.writeBlock d Y).complete
  /-- QMFILL (`40_config.md` R101). -/
  | fill {qk : Sel} (scale : BitVec 16) {k : Fin 2} (hk : matrixSel qk = .ok k) (w : Word) :
      Effect s (.qmfill qk scale) (s.fillMatrix k w).complete
  /-- BITDEP (`44_residual_enh.md` R166). -/
  | depth (ra : Sel) {d : Word} (hd : DepthWord d) : Effect s (.bitdep ra) { s with bdepth := d }.complete
  /-- STB (`42_block_io.md` R143). -/
  | store (fd rs : Sel) {cells : List Host.Cell} (hc : ∀ c ∈ cells, c.1 < s.fmemSize) :
      Effect s (.stb fd rs) { s with fmem := Memory.writeAll s.fmem cells }.complete
  /-- BASEF and ENHF (`43_base_frame.md` R152, `44_residual_enh.md` R170). -/
  | frame {i : Instr} (hi : isCombinerCommand i = false) {cells : List Host.Cell}
      (hc : ∀ c ∈ cells, c.1 < s.fmemSize) {d : Word} (hd : d = s.bdepth ∨ DepthWord d) :
      Effect s i { s with
        fmem := Memory.writeAll s.fmem cells
        bdepth := d
        status := s.status.edged s.width s.height }.complete
  /-- LINIT (`45_combiner.md` R185). -/
  | init : Effect s .linit
      { s with lstat := Lstat.reset, lcount := 0, inaDim := 0, inaFps := 0, inbDim := 0, inbFps := 0 }.complete
  /-- The first phase of LOPEN (`45_combiner.md` R186). -/
  | opening (h : s.lstat.state = .idle) : Effect s .lopen { s with lstat := { s.lstat with state := .opening } }
  /-- The second phase of LOPEN (`45_combiner.md` R186, R187). -/
  | opened (h : s.lstat.state = .opening) : Effect s .lopen s.openPorts.complete
  /-- The pair-step of LSTEP, or the one that ends LRUN's run (`45_combiner.md` R190, R191). -/
  | pair {i : Instr} (hi : i = .lstep ∨ i = .lrun) (h : s.lstat.state = .streaming) :
      Effect s i s.pairStep.complete
  /-- A pair-step of LRUN that goes on (`45_combiner.md` R191). -/
  | pairOn (h : s.lstat.state = .streaming) : Effect s .lrun s.pairStep

theorem effect_of_conclude {s t : State} {i : Instr} {r : Except FaultCode State} (hi : i ≠ .lopen)
    (hr : Completes (fun u => Effect s i u.complete) r) (h : s.conclude r = .next t) : Effect s i t :=
  Completes.conclude (P := Effect s i) hr (fun c => .fault c fun he => absurd he hi) h

section
variable {s : State} {i : Instr} (hi : isCombinerCommand i = false)
include hi

theorem State.unaryBlock_effect (rd ra : Sel) (f : Block → Option Block) :
    Completes (fun u => Effect s i u.complete) (s.unaryBlock rd ra f) :=
  .bind fun d _ => .bind fun _ _ => .bind fun _ _ => .bind fun Y _ => .ok (.block hi d Y)

theorem State.matrixBlock_effect (rd ra qk : Sel) (f : Block → Block → Option Block) :
    Completes (fun u => Effect s i u.complete) (s.matrixBlock rd ra qk f) :=
  .bind fun d _ => .bind fun _ _ => .bind fun _ _ => .bind fun _ _ => .bind fun _ _ => .bind fun Y _ =>
    .ok (.block hi d Y)

theorem State.binaryBlock_effect (rd ra rb : Sel) (f : Block → Block → Option Block) :
    Completes (fun u => Effect s i u.complete) (s.binaryBlock rd ra rb f) :=
  .bind fun d _ => .bind fun _ _ => .bind fun _ _ => .bind fun _ _ => .bind fun _ _ => .bind fun Y _ =>
    .ok (.block hi d Y)

end

theorem execBitdep_effect {ra : Sel} {s t : State} : execBitdep ra s = .next t → Effect s (.bitdep ra) t :=
  effect_of_conclude nofun <| .bind fun _ _ => .bind fun X hX => .ok <| .depth ra <| by
    obtain ⟨-, hfin, rfl⟩ := State.srcBlock_ok.1 hX
    exact depthWord_bitdepth (State.blockValues_below hfin)

theorem execLdb_effect {rd fs : Sel} {s t : State} : execLdb rd fs s = .next t → Effect s (.ldb rd fs) t :=
  effect_of_conclude nofun <| .bind fun d _ => .bind fun _ _ => .bind fun _ _ => .ok (.block rfl d _)

theorem execStb_effect {fd rs : Sel} {s t : State} : execStb fd rs s = .next t → Effect s (.stb fd rs) t :=
  effect_of_conclude nofun <| .bind fun _ _ => .bind fun _ _ => .bind fun X _ => .bind fun _ hcheck =>
    .ok (.store fd rs (State.storeCells_bound hcheck X))

theorem execQmfill_effect {qk : Sel} {scale : BitVec 16} {s t : State} :
    execQmfill qk scale s = .next t → Effect s (.qmfill qk scale) t :=
  effect_of_conclude nofun <| .bind fun k hk => by
    dsimp only
    split
    · exact .bind fun _ h => nomatch h
    · exact .ok (.fill scale hk _)

theorem execBasef_effect {fd fs qk : Sel} {s t : State} :
    execBasef fd fs qk s = .next t → Effect s (.basef fd fs qk) t :=
  effect_of_conclude nofun <| .bind fun _ _ => .bind fun _ _ => .bind fun _ _ => .bind fun _ _ =>
    .bind fun _ hcheck => .bind fun _ hrs =>
      .ok (.frame rfl (State.frameCells_bound hcheck (State.baseResults_mem (settled_ok.1 hrs))) (.inl rfl))

theorem execEnhf_effect {fd fo fb qk : Sel} {s t : State} :
    execEnhf fd fo fb qk s = .next t → Effect s (.enhf fd fo fb qk) t :=
  effect_of_conclude nofun <| .bind fun _ _ => .bind fun _ _ => .bind fun _ _ => .bind fun _ _ =>
    .bind fun _ hM => .bind fun _ hcheck => .bind fun rs hrs => by
      obtain ⟨hlegal, rfl⟩ := State.matrix_ok.1 hM
      have hmem := State.enhResults_mem hlegal (settled_ok.1 hrs)
      refine .ok (.frame rfl (State.frameCells_bound hcheck fun p hp => ?_)
        (State.enhDepth_range fun r hr => (hmem r hr).2))
      obtain ⟨r, hr, rfl⟩ := List.mem_map.1 hp
      exact (hmem r hr).1

theorem execLinit_effect {s t : State} : execLinit s = .next t → Effect s .linit t :=
  effect_of_conclude nofun <| by
    split
    · exact .ok .init
    · exact .error _ _

theorem execLopen_effect {s t : State} (h : execLopen s = .next t) : Effect s .lopen t := by
  unfold execLopen at h
  split at h
  · next hopening => cases h; exact .opened hopening
  · next hopening =>
    split at h <;> cases h
    · next hidle => exact .opening hidle
    · exact .fault .state fun _ => hopening

theorem execLstep_effect {s t : State} (h : execLstep s = .next t) : Effect s .lstep t := by
  unfold execLstep at h
  split at h
  · cases h; exact .fault .state nofun
  · next hstream =>
    split at h <;> cases h
    · exact .pair (.inl rfl) (not_not.1 hstream)
    · exact .hold (.inl rfl)

theorem execLrun_effect {s t : State} (h : execLrun s = .next t) : Effect s .lrun t := by
  unfold execLrun at h
  split at h
  · cases h; exact .fault .state nofun
  · next hstream =>
    split at h
    · split at h <;> cases h
      · exact .pair (.inr rfl) (not_not.1 hstream)
      · exact .pairOn (not_not.1 hstream)
    · cases h; exact .hold (.inr rfl)

/-- Every next state a command answers is one of its outcomes. -/
theorem exec_effect {i : Instr} {s t : State} (h : exec i s = .next t) : Effect s i t := by
  cases i with
  | nop => cases h; exact .nop
  | clrerr => cases h; exact .clrerr
  | sreset => cases h; exact .sreset
  | fdct => exact effect_of_conclude nofun (State.unaryBlock_effect rfl _ _ _) h
  | idct => exact effect_of_conclude nofun (State.unaryBlock_effect rfl _ _ _) h
  | quant => exact effect_of_conclude nofun (State.matrixBlock_effect rfl _ _ _ _) h
  | dequant => exact effect_of_conclude nofun (State.matrixBlock_effect rfl _ _ _ _) h
  | clip => exact effect_of_conclude nofun (State.unaryBlock_effect rfl _ _ _) h
  | sub => exact effect_of_conclude nofun (State.binaryBlock_effect rfl _ _ _ _) h
  | add => exact effect_of_conclude nofun (State.binaryBlock_effect rfl _ _ _ _) h
  | bitdep => exact execBitdep_effect h
  | ldb => exact execLdb_effect h
  | stb => exact execStb_effect h
  | qmfill => exact execQmfill_effect h
  | basef => exact execBasef_effect h
  | enhf => exact execEnhf_effect h
  | linit => exact execLinit_effect h
  | lopen => exact execLopen_effect h
  | lstep => exact execLstep_effect h
  | lrun => exact execLrun_effect h

end Sys2Proof.Machine
end

section
/-!
What the two halves of the unit leave of each other (`10_state.md` R48, R49), and what the commands leave of the
matrix registers (R27), read off the outcomes of a command.
-/

namespace Sys2Proof.Machine

section
variable {s t : State} (h : SameDatapath s t)
include h

theorem SameDatapath.brv : t.brv = s.brv := by
  obtain ⟨-, hbrv, -⟩ := h
  exact hbrv

theorem SameDatapath.qm : t.qm = s.qm := by
  obtain ⟨-, -, hqm, -⟩ := h
  exact hqm

theorem SameDatapath.cur : t.cur = s.cur := by
  obtain ⟨-, -, -, -, hcur, -⟩ := h
  exact hcur

theorem SameDatapath.bdepth : t.bdepth = s.bdepth := by
  obtain ⟨-, -, -, -, -, -, hbdepth, -⟩ := h
  exact hbdepth

theorem SameDatapath.fmem : t.fmem = s.fmem := by
  obtain ⟨-, -, -, -, -, -, -, hfmem⟩ := h
  exact hfmem

end

theorem State.openPorts_sameDatapath (s : State) : SameDatapath s s.openPorts := by
  unfold State.openPorts
  split <;> exact ⟨rfl, rfl, rfl, rfl, rfl, rfl, rfl, rfl⟩

theorem State.pairStep_sameDatapath (s : State) : SameDatapath s s.pairStep := by
  unfold State.pairStep
  split <;> exact ⟨rfl, rfl, rfl, rfl, rfl, rfl, rfl, rfl⟩

theorem Effect.sameDatapath {s t : State} {i : Instr} (h : Effect s i t) (hi : isCombinerCommand i = true) :
    SameDatapath s t := by
  cases h with
  | fault | hold | init | opening => exact ⟨rfl, rfl, rfl, rfl, rfl, rfl, rfl, rfl⟩
  | opened => exact s.openPorts_sameDatapath
  | pair | pairOn => exact s.pairStep_sameDatapath
  | nop | clrerr | sreset | fill | depth | store => cases hi
  | block hi' | frame hi' => exact Bool.noConfusion (hi.symm.trans hi')

theorem Effect.sameCombiner {s t : State} {i : Instr} (h : Effect s i t) (hi : isCombinerCommand i = false)
    (hreset : i ≠ .sreset) : SameCombiner s t := by
  cases h with
  | fault | nop | clrerr | block | fill | depth | store | frame =>
    exact ⟨rfl, rfl, rfl, rfl, rfl, rfl, rfl, rfl, rfl, rfl, rfl⟩
  | sreset => exact absurd rfl hreset
  | init | opening | opened | pairOn => cases hi
  | hold hi' | pair hi' => rcases hi' with rfl | rfl <;> cases hi

/-- Settles O59, from the outcomes of the commands of either half. -/
theorem combinerIsDisjoint : Obligations.CombinerIsDisjoint := fun _ _ _ h hreset =>
  ⟨(exec_effect h).sameDatapath, fun hi => (exec_effect h).sameCombiner hi hreset⟩

/-- The only outcome that writes a matrix register is QMFILL's, and it writes the one it names. -/
theorem Effect.qm_eq {s t : State} {i : Instr} (h : Effect s i t) (hreset : i ≠ .sreset) :
    t.qm = s.qm ∨ ∃ qk n k w, i = .qmfill qk n ∧ matrixSel qk = .ok k ∧
      t.qm = s.qm.set k (Vector.replicate 64 w) := by
  cases h with
  | sreset => exact absurd rfl hreset
  | fill n hk w => exact .inr ⟨_, n, _, w, rfl, hk, rfl⟩
  | opened => exact .inl s.openPorts_sameDatapath.qm
  | pair | pairOn => exact .inl s.pairStep_sameDatapath.qm
  | fault | hold | nop | clrerr | block | depth | store | frame | init | opening => exact .inl rfl

/-- Settles O57: a matrix QMFILL does not name is not the one it writes. -/
theorem commandsLeaveMatrices : Obligations.CommandsLeaveMatrices := by
  intro i s t h hreset
  rcases (exec_effect h).qm_eq hreset with hqm | ⟨qk, n, j, w, rfl, hj, hqm⟩
  · exact ⟨fun _ => hqm, fun _ _ _ _ _ => by rw [hqm]⟩
  · refine ⟨fun hno => absurd rfl (hno qk n), fun k q m hi hk => ?_⟩
    cases hi
    obtain rfl : q = j := Except.ok.inj ((matrixSel_sel q).symm.trans hj)
    rw [hqm]
    exact Vector.getElem_set_ne _ _ fun he => hk (Fin.ext he.symm)

end Sys2Proof.Machine
end

section
/-!
What a step can do: the unit's turn through `Effect`, the other agents through `AgentEffect`, and the step by whose
turn it is (`00_scope.md` R7, `10_state.md` R41).
-/

namespace Sys2Proof.Machine

/-! ### The unit's turn -/

theorem State.unitTurn_of_decode {s : State} {w : Word} {i : Instr} (hp : s.pend = some w)
    (hd : decode w = .ok i) : s.unitTurn = exec i s := by
  simp only [State.unitTurn, State.runWord, hp, hd]

theorem State.unitTurn_of_illegal {s : State} {w : Word} {r : DecodeError} (hp : s.pend = some w)
    (hd : decode w = .error r) : s.unitTurn = .next (s.takeFault .illegal) := by
  simp only [State.unitTurn, State.runWord, hp, hd]

theorem State.unitTurn_of_none {s : State} (hp : s.pend = none) : s.unitTurn = .next s := by
  simp only [State.unitTurn, hp]

/-- What the unit's turn can do. -/
theorem State.unitTurn_cases {s t : State} (h : s.unitTurn = .next t) :
    (s.pend = none ∧ t = s) ∨ ∃ w, s.pend = some w ∧
      ((∃ i, decode w = .ok i ∧ Effect s i t) ∨ (∃ r, decode w = .error r) ∧ t = s.takeFault .illegal) := by
  cases hp : s.pend with
  | none =>
    rw [State.unitTurn_of_none hp] at h
    cases h
    exact .inl ⟨rfl, rfl⟩
  | some w =>
    refine .inr ⟨w, rfl, ?_⟩
    cases hd : decode w with
    | ok i =>
      rw [State.unitTurn_of_decode hp hd] at h
      exact .inl ⟨i, rfl, exec_effect h⟩
    | error r =>
      rw [State.unitTurn_of_illegal hp hd] at h
      cases h
      exact .inr ⟨⟨r, rfl⟩, rfl⟩

/-- Settles O5: the unit's turn is next in either form of the agenda, and a word that matches no row of the
opcode table does not decode. -/
theorem stepRunsPendingCommand : Obligations.StepRunsPendingCommand := by
  intro s
  have hnil := step_of_agenda_nil (s := s)
  have hcons := fun rest => step_of_agenda_cons (s := s) (ev := .unit) (rest := rest)
  refine ⟨fun w i hp hd => ?decoded, fun w hp hrows => ?illegal, fun hp => ?idle⟩
  case decoded =>
    exact ⟨fun hag => (hnil hag).trans (State.unitTurn_of_decode hp hd),
      fun rest hag => (hcons rest hag).trans (State.unitTurn_of_decode (s := { s with agenda := rest }) hp hd)⟩
  case illegal =>
    obtain ⟨r, hd⟩ := decode_eq_error hrows
    exact ⟨fun hag => (hnil hag).trans (State.unitTurn_of_illegal hp hd),
      fun rest hag => (hcons rest hag).trans (State.unitTurn_of_illegal (s := { s with agenda := rest }) hp hd)⟩
  case idle =>
    exact ⟨fun hag => (hnil hag).trans (State.unitTurn_of_none hp),
      fun rest hag => (hcons rest hag).trans (State.unitTurn_of_none (s := { s with agenda := rest }) hp)⟩

/-! ### The other agents -/

/-- `CMD` is the one register at its offset (`10_state.md` R30). -/
theorem hrsReg_eq_cmd {off : Nat} : hrsReg off = .cmd ↔ off = 0x004 := by
  constructor
  · fun_cases hrsReg off
    case case2 => exact fun _ => by assumption
    all_goals exact nofun
  · rintro rfl
    rfl

/-- The state `t` is an outcome of a step of the agent that `ev` names in the state `s`. -/
inductive AgentEffect (s : State) : Event → State → Prop
  /-- The unit takes its turn. -/
  | unit {t : State} (h : s.unitTurn = .next t) : AgentEffect s .unit t
  /-- A host read is answered (`10_state.md` R43, R54). -/
  | answered (ev : Event) (w : Word) (n : Nat) : AgentEffect s ev { s with rdata := w, draws := n }
  /-- A write to `CMD` is discarded in the fault state (`10_state.md` R37). -/
  | discarded (ev : Event) : AgentEffect s ev s
  /-- A host write is ignored while `BUSY = 1` (`10_state.md` R42). -/
  | hazard (ev : Event) : AgentEffect s ev { s with status := s.status.hazard }
  /-- SRESET, written to `CMD` (`46_system.md` R202). -/
  | sreset : AgentEffect s (.hrsWrite .word 0x004 Config.sresetWord) s.resetOperation
  /-- Another word, accepted into `CMD` (`10_state.md` R41). -/
  | accepted (ev : Event) {w : Word} (hbusy : s.status.busy = false) (hw : w ≠ Config.sresetWord)
      (hlock : s.status.err = true → w = Config.clrerrWord) :
      AgentEffect s ev { s with pend := some w, status := s.status.accepted }
  /-- A register other than `CMD` is written (`10_state.md` R30). -/
  | register (ev : Event) (r : HrsReg) (w : Word) : AgentEffect s ev (s.writeReg r w)
  /-- A byte of FMEM is written (`20_memory.md` R65). -/
  | byte (ev : Event) {a : Nat} (ha : a < s.fmemSize) (v : Byte) :
      AgentEffect s ev { s with fmem := Memory.write s.fmem a v }
  /-- The reset input (`70_reset_and_hazards.md` R240). -/
  | resetInput (drawn : List Host.Cell) : AgentEffect s (.resetInput drawn) (s.resetInput drawn)
  /-- A producer or an attachment changes the ports (`10_state.md` R50 to R52). -/
  | ports (ev : Event) (a b : InPort) (l h f : OutPort) :
      AgentEffect s ev { s with ina := a, inb := b, outl := l, outh := h, outf := f }

theorem State.deliverWord_effect (s : State) (ev : Event) (o : Option Word) :
    AgentEffect s ev (s.deliverWord o) := by
  cases o with
  | none => exact .answered ev _ _
  | some w => exact .answered ev w s.draws

theorem State.issue_effect (s : State) (ev : Event) {w : Word} (hw : w ≠ Config.sresetWord) :
    AgentEffect s ev (s.issue w) := by
  unfold State.issue
  split
  · exact .hazard ev
  · next hbusy =>
    split
    · exact .discarded ev
    · next hlock => exact .accepted ev (Bool.eq_false_of_not_eq_true hbusy) hw (by tauto)

theorem State.hrsRead_effect {s t : State} {width : AccessWidth} {off : Nat}
    (h : s.hrsRead width off = .next t) : AgentEffect s (.hrsRead width off) t := by
  unfold State.hrsRead at h
  split at h <;> cases h
  exact s.deliverWord_effect _ _

theorem State.hrsWrite_effect {s t : State} {width : AccessWidth} {off : Nat} {w : Word}
    (h : s.hrsWrite width off w = .next t) : AgentEffect s (.hrsWrite width off w) t := by
  unfold State.hrsWrite at h
  split at h
  · next haccess =>
    split at h
    · next hcmd =>
      obtain rfl := hrsReg_eq_cmd.1 hcmd
      split at h <;> cases h
      · next hw =>
        obtain rfl : width = .word := by simp_all [hrsAccessOk]
        subst hw
        exact .sreset
      · next hw => exact s.issue_effect _ hw
    · split at h <;> cases h
      · exact .hazard _
      · exact .register _ _ w
  · cases h

theorem State.fmemRead_effect {s t : State} {width : AccessWidth} {a : Nat}
    (h : s.fmemRead width a = .next t) : AgentEffect s (.fmemRead width a) t := by
  unfold State.fmemRead at h
  split at h
  · split at h <;> cases h
    · exact .answered _ _ _
    · exact .answered _ _ s.draws
  · cases h

theorem State.fmemWrite_effect {s t : State} {width : AccessWidth} {a : Nat} {v : Byte}
    (h : s.fmemWrite width a v = .next t) : AgentEffect s (.fmemWrite width a v) t := by
  unfold State.fmemWrite at h
  split at h
  · next haccess =>
    split at h <;> cases h
    · exact .hazard _
    · exact .byte _ (of_decide_eq_true (Bool.and_eq_true_iff.1 haccess).2) v
  · cases h

theorem State.attach_effect {s t : State} {a b : InPort} {l h f : OutPort}
    (ht : s.attach a b l h f = .next t) : AgentEffect s (.attach a b l h f) t := by
  unfold State.attach at ht
  split at ht <;> cases ht
  exact .ports _ _ _ _ _ _

/-- Every next state an agent's step answers is one of its outcomes. -/
theorem State.agentStep_effect {s t : State} {ev : Event} (h : s.agentStep ev = .next t) :
    AgentEffect s ev t := by
  cases ev with
  | unit => exact .unit h
  | hrsRead => exact State.hrsRead_effect h
  | hrsWrite => exact State.hrsWrite_effect h
  | fmemRead => exact State.fmemRead_effect h
  | fmemWrite => exact State.fmemWrite_effect h
  | resetInput => cases h; exact .resetInput _
  | producerReady port =>
    cases port <;> cases h
    · exact .ports _ _ s.inb s.outl s.outh s.outf
    · exact .ports _ s.ina _ s.outl s.outh s.outf
  | attach => exact State.attach_effect h

/-! ### The step -/

/-- A step is the unit's turn, or one step of the agent the agenda names first. -/
theorem step_cases {s t : State} (h : step s = .next t) :
    (s.agenda = [] ∧ s.unitTurn = .next t) ∨
      ∃ ev rest, s.agenda = ev :: rest ∧ AgentEffect { s with agenda := rest } ev t := by
  cases hag : s.agenda with
  | nil => exact .inl ⟨rfl, (step_of_agenda_nil hag).symm.trans h⟩
  | cons ev rest =>
    exact .inr ⟨ev, rest, rfl, State.agentStep_effect ((step_of_agenda_cons hag).symm.trans h)⟩

/-- A property that does not speak of the agenda and that every outcome of an agent's step keeps is kept by the
step. -/
theorem step_keeps {P : State → Prop} (hagenda : ∀ {s} rest, P s → P { s with agenda := rest })
    (hagent : ∀ {s ev t}, P s → AgentEffect s ev t → P t) {s t : State} (hs : P s) (h : step s = .next t) :
    P t := by
  rcases step_cases h with ⟨-, hturn⟩ | ⟨ev, rest, -, heffect⟩
  · exact hagent hs (.unit hturn)
  · exact hagent (hagenda rest hs) heffect

end Sys2Proof.Machine
end

section
/-!
What every step keeps of the datapath: the range of `BDEPTH` (`10_state.md` R34), and the valid bits of the block
registers but for a reset (R22).
-/

namespace Sys2Proof.Machine

/-! ### The range of `BDEPTH` -/

theorem depthWord_zero : DepthWord 0 := by unfold DepthWord; decide

theorem Effect.bdepth {s t : State} {i : Instr} (h : Effect s i t) :
    t.bdepth = s.bdepth ∨ DepthWord t.bdepth := by
  cases h with
  | depth _ hd => exact .inr hd
  | frame _ _ hd => exact hd
  | sreset => exact .inr depthWord_zero
  | opened => exact .inl s.openPorts_sameDatapath.bdepth
  | pair | pairOn => exact .inl s.pairStep_sameDatapath.bdepth
  | fault | hold | nop | clrerr | block | fill | store | init | opening => exact .inl rfl

theorem State.unitTurn_bdepth {s t : State} (h : s.unitTurn = .next t) :
    t.bdepth = s.bdepth ∨ DepthWord t.bdepth := by
  obtain ⟨-, rfl⟩ | ⟨w, -, ⟨i, -, heffect⟩ | ⟨-, rfl⟩⟩ := State.unitTurn_cases h
  · exact .inl rfl
  · exact heffect.bdepth
  · exact .inl rfl

theorem State.writeReg_bdepth (s : State) (r : HrsReg) (w : Word) : (s.writeReg r w).bdepth = s.bdepth := by
  cases r <;> rfl

theorem AgentEffect.bdepth {s t : State} {ev : Event} (h : AgentEffect s ev t) :
    t.bdepth = s.bdepth ∨ DepthWord t.bdepth := by
  cases h with
  | unit hturn => exact State.unitTurn_bdepth hturn
  | sreset | resetInput => exact .inr depthWord_zero
  | register _ r w => exact .inl (s.writeReg_bdepth r w)
  | answered | discarded | hazard | accepted | byte | ports => exact .inl rfl

/-- Settles O53: an agent's step keeps `BDEPTH`, or leaves a word of its range there. -/
theorem stepKeepsDepthInRange : Obligations.StepKeepsDepthInRange := fun _ _ hs h =>
  step_keeps (P := DepthInRange) (fun _ hs => hs)
    (fun hs heffect => heffect.bdepth.elim (fun heq => by unfold DepthInRange; rwa [heq]) id) hs h

/-! ### The valid bits -/

/-- A valid bit set in `s` is set in `t`. -/
def KeepsValid (s t : State) : Prop := ∀ (k : Fin 4) (e : Fin 64), s.brv[k][e] = true → t.brv[k][e] = true

theorem KeepsValid.of_eq {s t : State} (h : t.brv = s.brv) : KeepsValid s t := fun _ _ hv => by rwa [h]

/-- A block register whose valid bits only grow. -/
theorem KeepsValid.of_set {s t : State} {d : Fin 4} {row : Vector Bool 64} (h : t.brv = s.brv.set d row)
    (hrow : ∀ e : Fin 64, s.brv[d][e] = true → row[e] = true) : KeepsValid s t := by
  intro k e hv
  rw [h]
  rcases eq_or_ne d k with rfl | hne
  · simpa using hrow e hv
  · simpa [Vector.getElem_set_ne _ _ (Fin.val_ne_of_ne hne)] using hv

theorem Effect.keepsValid {s t : State} {i : Instr} (h : Effect s i t) (hi : i ≠ .sreset) : KeepsValid s t := by
  cases h with
  | sreset => exact absurd rfl hi
  | block _ d Y => exact .of_set (s.writeBlock_brv d Y) fun e _ => by simp
  | opened => exact .of_eq s.openPorts_sameDatapath.brv
  | pair | pairOn => exact .of_eq s.pairStep_sameDatapath.brv
  | fault | hold | nop | clrerr | fill | depth | store | frame | init | opening => exact .of_eq rfl

/-- The unit's turn keeps the valid bits, unless SRESET's word is pending. -/
theorem State.unitTurn_keepsValid {s t : State} (h : s.unitTurn = .next t) :
    KeepsValid s t ∨ s.pend = some Config.sresetWord := by
  obtain ⟨-, rfl⟩ | ⟨w, hp, ⟨i, hd, heffect⟩ | ⟨-, rfl⟩⟩ := State.unitTurn_cases h
  · exact .inl (.of_eq rfl)
  · by_cases hi : i = .sreset
    · subst hi
      exact .inr (by rw [hp, eq_sresetWord_of_decode hd])
    · exact .inl (heffect.keepsValid hi)
  · exact .inl (.of_eq rfl)

theorem State.writeReg_keepsValid (s : State) (r : HrsReg) (w : Word) : KeepsValid s (s.writeReg r w) := by
  cases r with
  | br k e =>
    refine .of_set (s.writeElement_brv k e w) fun e' hv => ?_
    rcases eq_or_ne e e' with rfl | hne
    · simp
    · simpa [Vector.getElem_set_ne _ _ (Fin.val_ne_of_ne hne)] using hv
  | _ => exact .of_eq rfl

/-- The step of the agent the agenda names keeps the valid bits, unless it performs a reset. -/
theorem AgentEffect.keepsValid {s t : State} {ev : Event} {rest : List Event} (hag : s.agenda = ev :: rest)
    (h : AgentEffect { s with agenda := rest } ev t) : KeepsValid s t ∨ resetsNext s = true := by
  cases h with
  | unit hturn => exact (State.unitTurn_keepsValid hturn).imp id fun hp => by simpa [resetsNext, hag] using hp
  | sreset | resetInput => exact .inr (by simp [resetsNext, hag])
  | register _ r w => exact .inl (State.writeReg_keepsValid { s with agenda := rest } r w)
  | answered | discarded | hazard | accepted | byte | ports => exact .inl (.of_eq rfl)

/-- Settles O56, by whose turn it is. -/
theorem onlyResetClearsValidBits : Obligations.OnlyResetClearsValidBits := by
  intro s t k e h hv
  have hkeeps : KeepsValid s t ∨ resetsNext s = true := by
    rcases step_cases h with ⟨hag, hturn⟩ | ⟨ev, rest, hag, heffect⟩
    · exact (State.unitTurn_keepsValid hturn).imp id fun hp => by simp [resetsNext, hag, hp]
    · exact heffect.keepsValid hag
  exact hkeeps.imp (fun hkeep => hkeep k e hv) id

end Sys2Proof.Machine
end

section
/-!
The invariant of the machine (`10_state.md` sections 5 and 6, `60_exceptions.md` section 1). It has four parts that
speak of different fields: what may be pending, the fault record, the LSC's status, and the data with zero bits or a
canonical form. Each part has its own lemmas, and an outcome of a step is one line of them.
-/

namespace Sys2Proof.Machine

/-! ### The four parts -/

/-- What may be pending, given `BUSY`, `ERR` and the LSC's state. -/
structure PendOk (pend : Option Word) (busy err : Bool) (state : LscState) : Prop where
  busy_iff : busy = pend.isSome
  no_sreset : pend ≠ some Config.sresetWord
  fault_lock : err = true → pend = none ∨ pend = some Config.clrerrWord
  opening_pend : state = .opening → pend = some Config.lopenWord

/-- `ERR`, `ERRCODE` and `ERRINFO` fit together. -/
structure RecordOk (err : Bool) (errcode : BitVec 8) (errinfo : Word) : Prop where
  no_fault : err = false → errcode = 0 ∧ errinfo = 0
  code_known : err = true → 1 ≤ errcode.toNat ∧ errcode.toNat ≤ 7

/-- The fields of `LSTAT` fit together. -/
structure LscOk (l : Lstat) : Prop where
  no_finalizing : l.state ≠ .finalizing
  flags_closed : (l.openerr || l.eosa || l.eosb || l.faila || l.failb) = true → l.state = .closed
  openerr_iff : l.openerr = (l.faila || l.failb)

/-- `CUR` has its zero bits, and FMEM its form, below its size. -/
structure DataOk (cur : Word) (fmem : Memory) (size : Nat) : Prop where
  cur_zero : cur &&& ~~~curMask = 0
  fmem_wf : Memory.wf fmem = true
  fmem_bound : ∀ c ∈ fmem, c.1 < size

section
variable {s : State} (h : Inv s)
include h

theorem Inv.pendOk : PendOk s.pend s.status.busy s.status.err s.lstat.state :=
  ⟨h.busy_iff, h.no_sreset, h.fault_lock, h.opening_pend⟩

theorem Inv.recordOk : RecordOk s.status.err s.status.errcode s.errinfo := ⟨h.no_fault, h.code_known⟩

theorem Inv.lscOk : LscOk s.lstat := ⟨h.no_finalizing, h.flags_closed, h.openerr_iff⟩

theorem Inv.dataOk : DataOk s.cur s.fmem s.fmemSize := ⟨h.cur_zero, h.fmem_wf, h.fmem_bound⟩

end

theorem Inv.of_parts {s : State} (hp : PendOk s.pend s.status.busy s.status.err s.lstat.state)
    (hr : RecordOk s.status.err s.status.errcode s.errinfo) (hl : LscOk s.lstat)
    (hd : DataOk s.cur s.fmem s.fmemSize) : Inv s where
  busy_iff := hp.busy_iff
  no_fault := hr.no_fault
  code_known := hr.code_known
  no_sreset := hp.no_sreset
  fault_lock := hp.fault_lock
  no_finalizing := hl.no_finalizing
  opening_pend := hp.opening_pend
  flags_closed := hl.flags_closed
  openerr_iff := hl.openerr_iff
  cur_zero := hd.cur_zero
  fmem_wf := hd.fmem_wf
  fmem_bound := hd.fmem_bound

/-! ### What keeps each part -/

/-- Nothing is pending: a command has ended. -/
theorem PendOk.ended {state : LscState} (err : Bool) (h : state ≠ .opening) : PendOk none false err state :=
  ⟨rfl, nofun, fun _ => .inl rfl, fun hs => absurd hs h⟩

/-- The LSC leaves or stays out of `Opening`; what is pending stays so. -/
theorem PendOk.of_state {pend : Option Word} {busy err : Bool} {state state' : LscState}
    (h : PendOk pend busy err state) (hs : state' ≠ .opening) : PendOk pend busy err state' :=
  ⟨h.busy_iff, h.no_sreset, h.fault_lock, fun he => absurd he hs⟩

theorem FaultCode.code_range (c : FaultCode) : 1 ≤ c.code.toNat ∧ c.code.toNat ≤ 7 := by
  cases c <;> decide

theorem RecordOk.faulted (c : FaultCode) (info : Word) : RecordOk true c.code info := ⟨nofun, fun _ => c.code_range⟩

theorem RecordOk.cleared : RecordOk false 0 0 := ⟨fun _ => ⟨rfl, rfl⟩, nofun⟩

theorem LscOk.reset : LscOk Lstat.reset := ⟨nofun, nofun, rfl⟩

/-- Before the end of a run no flag is set. -/
theorem LscOk.flags_false {l : Lstat} (h : LscOk l) (hs : l.state ≠ .closed) :
    l.openerr = false ∧ l.eosa = false ∧ l.eosb = false ∧ l.faila = false ∧ l.failb = false := by
  have hnone := mt h.flags_closed hs
  simp only [Bool.not_eq_true, Bool.or_eq_false_iff] at hnone
  tauto

theorem DataOk.reset_cur {cur : Word} {m : Memory} {n : Nat} (h : DataOk cur m n) : DataOk 0 m n :=
  ⟨by decide, h.fmem_wf, h.fmem_bound⟩

theorem masked_cur_zero (w : Word) : w &&& curMask &&& ~~~curMask = 0 := by
  have hmask : curMask &&& ~~~curMask = 0#32 := by decide
  rw [BitVec.and_assoc, hmask]
  exact BitVec.and_zero

theorem DataOk.masked_cur {cur : Word} {m : Memory} {n : Nat} (h : DataOk cur m n) (w : Word) :
    DataOk (w &&& curMask) m n :=
  ⟨masked_cur_zero w, h.fmem_wf, h.fmem_bound⟩

theorem DataOk.write {cur : Word} {m : Memory} {n a : Nat} (h : DataOk cur m n) (ha : a < n) (v : Byte) :
    DataOk cur (Memory.write m a v) n :=
  ⟨h.cur_zero, Memory.wf_write a v h.fmem_wf, Memory.bound_write v h.fmem_bound ha⟩

theorem DataOk.writeAll {cur : Word} {m : Memory} {n : Nat} {cells : List Host.Cell} (h : DataOk cur m n)
    (hc : ∀ c ∈ cells, c.1 < n) : DataOk cur (Memory.writeAll m cells) n :=
  ⟨h.cur_zero, Memory.wf_writeAll cells h.fmem_wf, Memory.bound_writeAll cells h.fmem_bound hc⟩

theorem DataOk.of_sameDatapath {s t : State} (h : DataOk s.cur s.fmem s.fmemSize) (ht : SameDatapath s t)
    (hsize : t.fmemSize = s.fmemSize) : DataOk t.cur t.fmem t.fmemSize := by
  rwa [ht.cur, ht.fmem, hsize]

/-- FMEM unwritten, `CUR` 0. -/
theorem DataOk.empty (n : Nat) : DataOk 0 [] n := ⟨by decide, rfl, nofun⟩

/-- Settles O51, part by part. -/
theorem resetMeetsInvariant : Obligations.ResetMeetsInvariant :=
  .of_parts (.ended false nofun) .cleared .reset (.empty _)

/-! ### The combiner's commands -/

@[simp] theorem State.openPorts_status (s : State) : s.openPorts.status = s.status := by
  unfold State.openPorts
  split <;> rfl

@[simp] theorem State.openPorts_errinfo (s : State) : s.openPorts.errinfo = s.errinfo := by
  unfold State.openPorts
  split <;> rfl

@[simp] theorem State.pairStep_status (s : State) : s.pairStep.status = s.status := by
  unfold State.pairStep
  split <;> rfl

@[simp] theorem State.pairStep_errinfo (s : State) : s.pairStep.errinfo = s.errinfo := by
  unfold State.pairStep
  split <;> rfl

@[simp] theorem State.pairStep_pend (s : State) : s.pairStep.pend = s.pend := by
  unfold State.pairStep
  split <;> rfl

/-- The second phase of LOPEN leaves `Opening`, with the flags of an open-error only in `Closed`. -/
theorem State.openPorts_lscOk {s : State} (h : LscOk s.lstat) (hs : s.lstat.state ≠ .closed) :
    LscOk s.openPorts.lstat ∧ s.openPorts.lstat.state ≠ .opening := by
  obtain ⟨hopenerr, heosa, heosb, -, -⟩ := h.flags_false hs
  by_cases hp : s.ina.present = true ∧ s.inb.present = true
  · rw [State.openPorts_present hp.1 hp.2]
    exact ⟨⟨nofun, by simp [hopenerr, heosa, heosb], by simp [hopenerr]⟩, nofun⟩
  · rw [State.openPorts_absent hp]
    exact ⟨⟨nofun, fun _ => rfl, by simpa [imp_iff_not_or] using hp⟩, nofun⟩

/-- A pair-step stays in `Streaming`, or ends the run in `Closed`. -/
theorem State.pairStep_lscOk {s : State} (h : LscOk s.lstat) (hs : s.lstat.state = .streaming) :
    LscOk s.pairStep.lstat ∧ s.pairStep.lstat.state ≠ .opening := by
  by_cases heos : s.ina.token = none ∨ s.inb.token = none
  · rw [State.pairStep_eos heos]
    exact ⟨⟨nofun, fun _ => rfl, h.openerr_iff⟩, nofun⟩
  · push Not at heos
    obtain ⟨ta, ha⟩ := Option.ne_none_iff_exists'.1 heos.1
    obtain ⟨tb, hb⟩ := Option.ne_none_iff_exists'.1 heos.2
    rw [State.pairStep_frames ha hb]
    exact ⟨h, by simp [hs]⟩

/-! ### Every outcome of a step keeps the invariant -/

theorem Inv.takeFault {s : State} (h : Inv s) (hs : s.lstat.state ≠ .opening) (c : FaultCode) :
    Inv (s.takeFault c) :=
  .of_parts (.ended true hs) (.faulted c _) h.lscOk h.dataOk

theorem Inv.resetOperation {s : State} (h : Inv s) : Inv s.resetOperation :=
  .of_parts (.ended false nofun) .cleared .reset h.dataOk.reset_cur

theorem Inv.resetInput {s : State} (drawn : List Host.Cell) : Inv (s.resetInput drawn) :=
  .of_parts (.ended false nofun) .cleared .reset
    ((DataOk.empty s.fmemSize).writeAll fun _ hc => of_decide_eq_true (List.mem_filter.1 hc).2)

/-- In `Opening` the pending word is LOPEN's. -/
theorem Inv.lopen_of_opening {s : State} (h : Inv s) {w : Word} (hp : s.pend = some w)
    (hs : s.lstat.state = .opening) : decode w = .ok .lopen := by
  obtain rfl : w = Config.lopenWord := Option.some.inj (hp.symm.trans (h.opening_pend hs))
  exact decode_lopenWord

/-- The outcomes of a command that is pending. -/
theorem Inv.effect {s t : State} {i : Instr} {w : Word} (h : Inv s) (hp : s.pend = some w)
    (hd : decode w = .ok i) (heffect : Effect s i t) : Inv t := by
  have hopen : i ≠ .lopen → s.lstat.state ≠ .opening := fun hi hs =>
    hi (Except.ok.inj (hd.symm.trans (h.lopen_of_opening hp hs)))
  have hother : isCombinerCommand i = false → s.lstat.state ≠ .opening := fun hi =>
    hopen (by rintro rfl; cases hi)
  cases heffect with
  | fault c hi =>
    by_cases hlopen : i = .lopen
    · exact h.takeFault (hi hlopen) c
    · exact h.takeFault (hopen hlopen) c
  | hold => exact h
  | nop | fill | depth => exact .of_parts (.ended _ (hother rfl)) h.recordOk h.lscOk h.dataOk
  | clrerr => exact .of_parts (.ended false (hother rfl)) .cleared h.lscOk h.dataOk
  | sreset => exact h.resetOperation
  | block hi => exact .of_parts (.ended _ (hother hi)) h.recordOk h.lscOk h.dataOk
  | store _ _ hc => exact .of_parts (.ended _ (hother rfl)) h.recordOk h.lscOk (h.dataOk.writeAll hc)
  | frame hi hc => exact .of_parts (.ended _ (hother hi)) h.recordOk h.lscOk (h.dataOk.writeAll hc)
  | init => exact .of_parts (.ended _ nofun) h.recordOk .reset h.dataOk
  | opening hidle =>
    obtain rfl := eq_lopenWord_of_decode hd
    obtain ⟨hopenerr, heosa, heosb, hfaila, hfailb⟩ := h.lscOk.flags_false (by simp [hidle])
    exact .of_parts ⟨h.busy_iff, h.no_sreset, h.fault_lock, fun _ => hp⟩ h.recordOk
      ⟨nofun, by simp [hopenerr, heosa, heosb, hfaila, hfailb], h.openerr_iff⟩ h.dataOk
  | opened hs =>
    obtain ⟨hlsc, hstate⟩ := State.openPorts_lscOk h.lscOk (by simp [hs])
    exact .of_parts (.ended _ hstate) (by simpa using h.recordOk) hlsc
      (h.dataOk.of_sameDatapath s.openPorts_sameDatapath s.openPorts_fmemSize)
  | pair _ hs =>
    obtain ⟨hlsc, hstate⟩ := State.pairStep_lscOk h.lscOk hs
    exact .of_parts (.ended _ hstate) (by simpa using h.recordOk) hlsc
      (h.dataOk.of_sameDatapath s.pairStep_sameDatapath s.pairStep_fmemSize)
  | pairOn hs =>
    obtain ⟨hlsc, hstate⟩ := State.pairStep_lscOk h.lscOk hs
    exact .of_parts (by simpa using h.pendOk.of_state hstate) (by simpa using h.recordOk) hlsc
      (h.dataOk.of_sameDatapath s.pairStep_sameDatapath s.pairStep_fmemSize)

theorem Inv.unitTurn {s t : State} (h : Inv s) (hturn : s.unitTurn = .next t) : Inv t := by
  obtain ⟨-, rfl⟩ | ⟨w, hp, ⟨i, hd, heffect⟩ | ⟨⟨r, hd⟩, rfl⟩⟩ := State.unitTurn_cases hturn
  · exact h
  · exact h.effect hp hd heffect
  · exact h.takeFault (fun hs => nomatch hd.symm.trans (h.lopen_of_opening hp hs)) .illegal

theorem Inv.writeReg {s : State} (h : Inv s) (r : HrsReg) (w : Word) : Inv (s.writeReg r w) := by
  cases r with
  | cur => exact .of_parts h.pendOk h.recordOk h.lscOk (h.dataOk.masked_cur w)
  | _ => exact .of_parts h.pendOk h.recordOk h.lscOk h.dataOk

/-- A word accepted into `CMD`: nothing was pending, so the LSC was not in `Opening`. -/
theorem Inv.accepted {s : State} (h : Inv s) {w : Word} (hbusy : s.status.busy = false)
    (hw : w ≠ Config.sresetWord) (hlock : s.status.err = true → w = Config.clrerrWord) :
    Inv { s with pend := some w, status := s.status.accepted } := by
  have hnone : s.pend = none := Option.not_isSome_iff_eq_none.1 (by simp [← h.busy_iff, hbusy])
  refine .of_parts ⟨rfl, fun he => hw (Option.some.inj he), fun he => .inr (congrArg some (hlock he)), fun hs => ?_⟩
    h.recordOk h.lscOk h.dataOk
  exact nomatch hnone.symm.trans (h.opening_pend hs)

theorem Inv.agentEffect {s t : State} {ev : Event} (h : Inv s) (heffect : AgentEffect s ev t) : Inv t := by
  cases heffect with
  | unit hturn => exact h.unitTurn hturn
  | discarded => exact h
  | sreset => exact h.resetOperation
  | accepted _ hbusy hw hlock => exact h.accepted hbusy hw hlock
  | register _ r w => exact h.writeReg r w
  | byte _ ha v => exact .of_parts h.pendOk h.recordOk h.lscOk (h.dataOk.write ha v)
  | resetInput drawn => exact .resetInput drawn
  | answered | hazard | ports => exact .of_parts h.pendOk h.recordOk h.lscOk h.dataOk

/-- Settles O52: the four parts do not speak of the agenda, and every outcome of an agent's step keeps them. -/
theorem stepKeepsInvariant : Obligations.StepKeepsInvariant := fun _ _ hs h =>
  step_keeps (P := Inv) (fun _ h => .of_parts h.pendOk h.recordOk h.lscOk h.dataOk) Inv.agentEffect hs h

end Sys2Proof.Machine
end

section
/-!
The status words bit by bit (`10_state.md` R35, R45). Each word's number is the sum of its fields at their places,
and every bit and field is a quotient and remainder of it.
-/

namespace Sys2Proof.Machine

theorem flagBit_toNat (b : Bool) : (flagBit b).toNat = b.toNat := by cases b <;> rfl

theorem Status.toNat_word (f : Status) :
    f.word.toNat = f.errcode.toNat * 2 ^ 8 + f.hzd.toNat * 2 ^ 3 + f.edge.toNat * 2 ^ 2 + f.err.toNat * 2 +
      f.busy.toNat := by
  simp only [Status.word, BitVec.toNat_append]
  rw [← Nat.shiftLeft_add_eq_or_of_lt f.errcode.isLt, ← Nat.shiftLeft_add_eq_or_of_lt (0#4).isLt,
    ← Nat.shiftLeft_add_eq_or_of_lt (flagBit f.hzd).isLt, ← Nat.shiftLeft_add_eq_or_of_lt (flagBit f.edge).isLt,
    ← Nat.shiftLeft_add_eq_or_of_lt (flagBit f.err).isLt, ← Nat.shiftLeft_add_eq_or_of_lt (flagBit f.busy).isLt]
  simp only [Nat.shiftLeft_eq, flagBit_toNat, BitVec.toNat_ofNat]
  omega

theorem Lstat.toNat_word (f : Lstat) :
    f.word.toNat = f.failb.toNat * 2 ^ 9 + f.faila.toNat * 2 ^ 8 + f.eosb.toNat * 2 ^ 6 + f.eosa.toNat * 2 ^ 5 +
      f.openerr.toNat * 2 ^ 4 + f.state.code.toNat := by
  simp only [Lstat.word, BitVec.toNat_append]
  rw [← Nat.shiftLeft_add_eq_or_of_lt (flagBit f.failb).isLt,
    ← Nat.shiftLeft_add_eq_or_of_lt (flagBit f.faila).isLt, ← Nat.shiftLeft_add_eq_or_of_lt (0#1).isLt,
    ← Nat.shiftLeft_add_eq_or_of_lt (flagBit f.eosb).isLt, ← Nat.shiftLeft_add_eq_or_of_lt (flagBit f.eosa).isLt,
    ← Nat.shiftLeft_add_eq_or_of_lt (flagBit f.openerr).isLt,
    ← Nat.shiftLeft_add_eq_or_of_lt (0#1).isLt, ← Nat.shiftLeft_add_eq_or_of_lt f.state.code.isLt]
  simp only [Nat.shiftLeft_eq, flagBit_toNat, BitVec.toNat_ofNat]
  omega

/-- A bit of a word from the word's number. -/
theorem getLsbD_eq_of_toNat {w : Word} {i : Nat} {b : Bool} (h : w.toNat / 2 ^ i % 2 = b.toNat) :
    w.getLsbD i = b := by
  rw [BitVec.getLsbD, Nat.testBit_eq_decide_div_mod_eq, h]
  cases b <;> rfl

/-- A bit that is 0, from the word's number. -/
theorem getLsbD_eq_false_of_toNat {w : Word} {i : Nat} (h : w.toNat / 2 ^ i % 2 = 0) : w.getLsbD i = false :=
  getLsbD_eq_of_toNat h

/-- A field of a word from the word's number. -/
theorem extractLsb'_eq_of_toNat {w : Word} {start len : Nat} {x : BitVec len}
    (h : w.toNat / 2 ^ start % 2 ^ len = x.toNat) : w.extractLsb' start len = x :=
  BitVec.eq_of_toNat_eq ((extractLsb'_toNat_eq w start len).trans h)

/-- A field that is 0, from the word's number. -/
theorem extractLsb'_eq_zero_of_toNat {w : Word} {start len : Nat} (h : w.toNat / 2 ^ start % 2 ^ len = 0) :
    w.extractLsb' start len = 0#len :=
  extractLsb'_eq_of_toNat (h.trans BitVec.toNat_zero.symm)

theorem Status.word_layout (f : Status) :
    f.word.getLsbD 0 = f.busy ∧ f.word.getLsbD 1 = f.err ∧ f.word.getLsbD 2 = f.edge ∧
      f.word.getLsbD 3 = f.hzd ∧ f.word.extractLsb' 4 4 = 0#4 ∧ f.word.extractLsb' 8 8 = f.errcode ∧
      f.word.extractLsb' 16 16 = 0#16 := by
  have hword := f.toNat_word
  have hbusy := f.busy.toNat_le
  have herr := f.err.toNat_le
  have hedge := f.edge.toNat_le
  have hhzd := f.hzd.toNat_le
  have hcode := f.errcode.isLt
  refine ⟨getLsbD_eq_of_toNat ?_, getLsbD_eq_of_toNat ?_, getLsbD_eq_of_toNat ?_, getLsbD_eq_of_toNat ?_,
    extractLsb'_eq_zero_of_toNat ?_, extractLsb'_eq_of_toNat ?_, extractLsb'_eq_zero_of_toNat ?_⟩ <;> omega

theorem Lstat.word_layout (f : Lstat) :
    f.word.extractLsb' 0 3 = f.state.code ∧ f.word.getLsbD 3 = false ∧ f.word.getLsbD 4 = f.openerr ∧
      f.word.getLsbD 5 = f.eosa ∧ f.word.getLsbD 6 = f.eosb ∧ f.word.getLsbD 7 = false ∧
      f.word.getLsbD 8 = f.faila ∧ f.word.getLsbD 9 = f.failb ∧ f.word.extractLsb' 10 22 = 0#22 := by
  have hword := f.toNat_word
  have hstate := f.state.code.isLt
  have hopenerr := f.openerr.toNat_le
  have heosa := f.eosa.toNat_le
  have heosb := f.eosb.toNat_le
  have hfaila := f.faila.toNat_le
  have hfailb := f.failb.toNat_le
  refine ⟨extractLsb'_eq_of_toNat ?_, getLsbD_eq_false_of_toNat ?_, getLsbD_eq_of_toNat ?_,
    getLsbD_eq_of_toNat ?_, getLsbD_eq_of_toNat ?_, getLsbD_eq_false_of_toNat ?_, getLsbD_eq_of_toNat ?_,
    getLsbD_eq_of_toNat ?_, extractLsb'_eq_zero_of_toNat ?_⟩ <;> omega

/-- Settles O50: the layouts, with the code of each of the five states. -/
theorem statusWordLayout : Obligations.StatusWordLayout := by
  refine ⟨Status.word_layout, fun f => ?_⟩
  obtain ⟨hstate, hbits⟩ := f.word_layout
  refine ⟨?_, ?_, ?_, ?_, ?_, hbits⟩ <;> exact fun hs => by rw [hstate, hs]; rfl

end Sys2Proof.Machine
end

section
/-!
Host accesses by offset (`10_state.md` R30, R41, R42, R54; `20_memory.md` R60 to R65): what lies at each offset,
then what an access does there.
-/

namespace Sys2Proof.Machine

/-! ### The map of HRS -/

theorem hrsReg_fb (k : Fin 4) : hrsReg (0x020 + 4 * k) = .fb k := by revert k; decide

/-- The map above the single registers. -/
theorem hrsReg_of_le {off : Nat} (h : 0x058 ≤ off) :
    hrsReg off =
      if 0x400 ≤ off ∧ off < 0x600 then
        .qm (Fin.ofNat 2 ((off - 0x400) / 0x100)) (Fin.ofNat 64 (off % 0x100 / 4))
      else if 0x800 ≤ off ∧ off < 0xC00 then
        .br (Fin.ofNat 4 ((off - 0x800) / 0x100)) (Fin.ofNat 64 (off % 0x100 / 4))
      else .reserved := by
  unfold hrsReg
  iterate 17 rw [if_neg (by omega)]

theorem hrsReg_matrix {off : Nat} (h : 0x400 ≤ off ∧ off < 0x600) :
    hrsReg off = .qm (Fin.ofNat 2 ((off - 0x400) / 0x100)) (Fin.ofNat 64 (off % 0x100 / 4)) := by
  rw [hrsReg_of_le (by omega), if_pos h]

theorem hrsReg_block {off : Nat} (h : 0x800 ≤ off ∧ off < 0xC00) :
    hrsReg off = .br (Fin.ofNat 4 ((off - 0x800) / 0x100)) (Fin.ofNat 64 (off % 0x100 / 4)) := by
  rw [hrsReg_of_le (by omega), if_neg (by omega), if_pos h]

theorem hrsReg_qm (k : Fin 2) (e : Fin 64) : hrsReg (0x400 + 0x100 * k + 4 * e) = .qm k e := by
  rw [hrsReg_matrix (by omega)]
  congr 1 <;> apply Fin.ext <;> simp only [Fin.ofNat] <;> omega

theorem hrsReg_br (k : Fin 4) (e : Fin 64) : hrsReg (0x800 + 0x100 * k + 4 * e) = .br k e := by
  rw [hrsReg_block (by omega)]
  congr 1 <;> apply Fin.ext <;> simp only [Fin.ofNat] <;> omega

theorem hrsReg_reserved {off : Nat} (h : off = 0x01C ∨ (0x030 ≤ off ∧ off < 0x040) ∨
    (0x058 ≤ off ∧ off < 0x400) ∨ (0x600 ≤ off ∧ off < 0x800) ∨ (0xC00 ≤ off ∧ off < 0x1000)) :
    hrsReg off = .reserved := by
  fun_cases hrsReg off
  case case20 => rfl
  all_goals omega

/-- The registers that ignore a write while `BUSY = 0` (`10_state.md` R30). -/
def HrsReg.readOnly : HrsReg → Bool
  | .id | .status | .errinfo | .bdepth | .lstat | .lcount | .inaDim | .inaFps | .inbDim | .inbFps
  | .reserved => true
  | .cmd | .dim | .cur | .fb _ | .qm _ _ | .br _ _ => false

theorem State.writeReg_readOnly {r : HrsReg} (h : r.readOnly = true) (s : State) (w : Word) :
    s.writeReg r w = s := by
  cases r with
  | cmd | dim | cur | fb | qm | br => cases h
  | _ => rfl

theorem hrsReg_readOnly {off : Nat} (h : off = 0x000 ∨ off = 0x008 ∨ off = 0x00C ∨ off = 0x018 ∨ off = 0x01C ∨
    (0x030 ≤ off ∧ off < 0x400) ∨ (0x600 ≤ off ∧ off < 0x800) ∨ (0xC00 ≤ off ∧ off < 0x1000)) :
    (hrsReg off).readOnly = true := by
  fun_cases hrsReg off
  case case2 | case5 | case6 | case8 | case9 | case10 | case11 | case18 | case19 => omega
  all_goals rfl

/-! ### Accesses that are accepted -/

theorem hrsAccessOk_word {off : Nat} (h4 : off % 4 = 0) (hlt : off < 4096) : hrsAccessOk .word off = true := by
  simp [hrsAccessOk, Config.hrsSize, h4, hlt]

theorem State.fmemAccessOk_byte {s : State} {a : Nat} (h : a < s.fmemSize) : s.fmemAccessOk .byte a = true := by
  simp [State.fmemAccessOk, h]

section
variable {s : State} {off : Nat} (h4 : off % 4 = 0) (hlt : off < 4096)
include h4 hlt

theorem State.hrsRead_of_some {w : Word} (hv : s.hrsValue (hrsReg off) = some w) :
    s.hrsRead .word off = .next { s with rdata := w } := by
  rw [State.hrsRead, if_pos (hrsAccessOk_word h4 hlt), hv]
  rfl

theorem State.hrsRead_of_none (hv : s.hrsValue (hrsReg off) = none) :
    s.hrsRead .word off = .next { s with rdata := Config.hostWordDraw s.draws, draws := s.draws + 1 } := by
  rw [State.hrsRead, if_pos (hrsAccessOk_word h4 hlt), hv]
  rfl

theorem State.hrsWrite_of_idle (hcmd : hrsReg off ≠ .cmd) (hbusy : s.status.busy = false) (w : Word) :
    s.hrsWrite .word off w = .next (s.writeReg (hrsReg off) w) := by
  rw [State.hrsWrite, if_pos (hrsAccessOk_word h4 hlt), if_neg hcmd, if_neg (by simp [hbusy])]

theorem State.hrsWrite_of_busy (hcmd : hrsReg off ≠ .cmd) (hbusy : s.status.busy = true) (w : Word) :
    s.hrsWrite .word off w = .next { s with status := s.status.hazard } := by
  rw [State.hrsWrite, if_pos (hrsAccessOk_word h4 hlt), if_neg hcmd, if_pos hbusy]

end

theorem State.hrsWrite_sreset (s : State) :
    s.hrsWrite .word 0x004 Config.sresetWord = .next s.resetOperation := rfl

theorem State.hrsWrite_cmd (s : State) {w : Word} (hw : w ≠ Config.sresetWord) :
    s.hrsWrite .word 0x004 w = .next (s.issue w) := by
  rw [State.hrsWrite, if_pos (hrsAccessOk_word rfl (by omega)), if_pos (hrsReg_eq_cmd.2 rfl), if_neg hw]

theorem State.issue_of_busy {s : State} (hbusy : s.status.busy = true) (w : Word) :
    s.issue w = { s with status := s.status.hazard } := if_pos hbusy

theorem State.issue_of_fault {s : State} {w : Word} (hbusy : s.status.busy = false) (herr : s.status.err = true)
    (hw : w ≠ Config.clrerrWord) : s.issue w = s := by
  rw [State.issue, if_neg (by simp [hbusy]), if_pos ⟨herr, hw⟩]

theorem State.issue_accepted {s : State} {w : Word} (hbusy : s.status.busy = false)
    (h : s.status.err = false ∨ w = Config.clrerrWord) :
    s.issue w = { s with pend := some w, status := s.status.accepted } := by
  rw [State.issue, if_neg (by simp [hbusy]), if_neg]
  rintro ⟨herr, hw⟩
  rcases h with h | h
  · exact nomatch herr.symm.trans h
  · exact hw h

theorem State.fmemRead_of_idle {s : State} {a : Nat} (ha : a < s.fmemSize) (hbusy : s.status.busy = false) :
    s.fmemRead .byte a = .next { s with rdata := (Memory.read s.fmem a).zeroExtend 32 } := by
  rw [State.fmemRead, if_pos (State.fmemAccessOk_byte ha), if_neg (by simp [hbusy])]

theorem State.fmemRead_of_busy {s : State} {a : Nat} (ha : a < s.fmemSize) (hbusy : s.status.busy = true) :
    s.fmemRead .byte a =
      .next { s with rdata := (Config.hostByteDraw s.draws).zeroExtend 32, draws := s.draws + 1 } := by
  rw [State.fmemRead, if_pos (State.fmemAccessOk_byte ha), if_pos hbusy]

theorem State.fmemWrite_of_idle {s : State} {a : Nat} (ha : a < s.fmemSize) (hbusy : s.status.busy = false)
    (v : Byte) : s.fmemWrite .byte a v = .next { s with fmem := Memory.write s.fmem a v } := by
  rw [State.fmemWrite, if_pos (State.fmemAccessOk_byte ha), if_neg (by simp [hbusy])]

theorem State.fmemWrite_of_busy {s : State} {a : Nat} (ha : a < s.fmemSize) (hbusy : s.status.busy = true)
    (v : Byte) : s.fmemWrite .byte a v = .next { s with status := s.status.hazard } := by
  rw [State.fmemWrite, if_pos (State.fmemAccessOk_byte ha), if_pos hbusy]

/-! ### The statements -/

/-- Settles O44: the four cases of `State.issue` and SRESET. -/
theorem cmdWriteProtocol : Obligations.CmdWriteProtocol := by
  intro s w
  refine ⟨?_, fun hw hbusy => ?_, fun hw hbusy herr hclr => ?_, fun hw hbusy h => ?_⟩
  · rintro rfl
    exact s.hrsWrite_sreset
  · rw [s.hrsWrite_cmd hw, State.issue_of_busy hbusy]
    rfl
  · rw [s.hrsWrite_cmd hw, State.issue_of_fault hbusy herr hclr]
  · rw [s.hrsWrite_cmd hw, State.issue_accepted hbusy h]
    rfl

/-- Settles O45: a write by whether it goes to `CMD`, a read by the register at its offset. -/
theorem busyAccesses : Obligations.BusyAccesses := by
  intro s hbusy
  refine ⟨fun off w h4 hlt hsreset => ?_, fun a v ha => State.fmemWrite_of_busy ha hbusy v,
    fun off h4 hoff => State.hrsRead_of_none h4 (by omega) ?_, fun a ha => State.fmemRead_of_busy ha hbusy⟩
  · by_cases hcmd : off = 0x004
    · subst hcmd
      rw [s.hrsWrite_cmd fun hw => hsreset ⟨rfl, hw⟩, State.issue_of_busy hbusy]
      rfl
    · exact State.hrsWrite_of_busy h4 hlt (mt hrsReg_eq_cmd.1 hcmd) hbusy w
  · rcases hoff with rfl | hoff | hoff
    · exact if_pos hbusy
    · rw [hrsReg_matrix hoff]
      exact if_pos hbusy
    · rw [hrsReg_block hoff]
      exact if_pos (by simp [hbusy])

/-- Settles O46: the value of the register at each offset, a draw for an element that is not valid. -/
theorem hostReadMap : Obligations.HostReadMap := by
  intro s
  have hconst : ∀ off w, off % 4 = 0 → off < 4096 → s.hrsValue (hrsReg off) = some w →
      s.hrsRead .word off = .next { s with rdata := w } := fun _ _ h4 hlt =>
    State.hrsRead_of_some h4 hlt
  refine ⟨hconst _ _ rfl (by omega) rfl, hconst _ _ rfl (by omega) rfl, hconst _ _ rfl (by omega) rfl,
    hconst _ _ rfl (by omega) rfl, hconst _ _ rfl (by omega) rfl, hconst _ _ rfl (by omega) rfl,
    fun hbusy => hconst _ _ rfl (by omega) (if_neg (by simp [hbusy])), fun k => ?fb,
    hconst _ _ rfl (by omega) rfl, hconst _ _ rfl (by omega) rfl, hconst _ _ rfl (by omega) rfl,
    hconst _ _ rfl (by omega) rfl, hconst _ _ rfl (by omega) rfl, hconst _ _ rfl (by omega) rfl,
    fun k e hbusy => ?matrix, fun k e hbusy hv => ?valid, fun k e hv => ?invalid, fun off h4 hoff => ?reserved,
    fun a hbusy ha => State.fmemRead_of_idle ha hbusy⟩
  case fb => exact hconst _ _ (by omega) (by omega) (by rw [hrsReg_fb]; rfl)
  case matrix => exact hconst _ _ (by omega) (by omega) (by rw [hrsReg_qm]; exact if_neg (by simp [hbusy]))
  case valid => exact hconst _ _ (by omega) (by omega) (by rw [hrsReg_br]; exact if_neg (by rw [hbusy, hv]; decide))
  case invalid =>
    refine State.hrsRead_of_none (by omega) (by omega) ?_
    rw [hrsReg_br]
    exact if_pos (by rw [hv, Bool.not_false, Bool.or_true])
  case reserved => exact hconst _ _ h4 (by omega) (by rw [hrsReg_reserved hoff]; rfl)

/-- Settles O47: the write to the register at each offset; the byte by `Memory.read_write`. -/
theorem hostWriteEffects : Obligations.HostWriteEffects := by
  intro s w hbusy
  have hwrite : ∀ {off r}, hrsReg off = r → off % 4 = 0 → off < 4096 → r ≠ .cmd →
      s.hrsWrite .word off w = .next (s.writeReg r w) := by
    rintro off r rfl h4 hlt hcmd
    exact State.hrsWrite_of_idle h4 hlt hcmd hbusy w
  refine ⟨hwrite (r := .dim) rfl rfl (by omega) nofun, hwrite (r := .cur) rfl rfl (by omega) nofun,
    fun k => hwrite (hrsReg_fb k) (by omega) (by omega) nofun,
    fun k e => hwrite (hrsReg_qm k e) (by omega) (by omega) nofun,
    fun k e => hwrite (hrsReg_br k e) (by omega) (by omega) nofun, fun off h4 hoff => ?_, fun a v ha hwf => ?_⟩
  · have hro := hrsReg_readOnly hoff
    have hcmd : hrsReg off ≠ .cmd := fun he => by
      rw [he] at hro
      cases hro
    rw [hwrite rfl h4 (by omega) hcmd, State.writeReg_readOnly hro]
  · exact ⟨_, State.fmemWrite_of_idle ha hbusy v, Memory.wf_write a v hwf, Memory.read_write hwf a v⟩

end Sys2Proof.Machine
end

section
/-!
The reset input (`10_state.md` R53, R55, R56): the values of the reset table, and FMEM as it was drawn.
-/

namespace Sys2Proof.Machine

theorem Status.reset_word : Status.reset.word = 0 := by decide

theorem Lstat.reset_word : Lstat.reset.word = 0 := by decide

/-- When the event draws every byte once, FMEM reads as drawn. -/
theorem State.read_resetInput {s : State} (content : Nat → Byte) {a : Nat} (ha : a < s.fmemSize) :
    Memory.read (s.resetInput ((List.range s.fmemSize).map fun a => (a, content a))).fmem a = content a := by
  refine Memory.read_writeAll_mem (m := []) rfl _ a (content a) ?_ fun c hc hca => ?_
  · exact List.mem_filter.2 ⟨List.mem_map.2 ⟨a, List.mem_range.2 ha, rfl⟩, decide_eq_true ha⟩
  · obtain ⟨b, -, rfl⟩ := List.mem_map.1 (List.mem_filter.1 hc).1
    exact congrArg content hca

/-- Settles O9: the step is the reset input with the event removed; what it leaves in FMEM is in the invariant. -/
theorem resetInputLeavesResetValues : Obligations.ResetInputLeavesResetValues := by
  intro s drawn rest hag
  have hinv : Inv (State.resetInput { s with agenda := rest } drawn) := .resetInput drawn
  refine ⟨State.resetInput { s with agenda := rest } drawn, step_of_agenda_cons hag, fun k e => ?valid,
    fun e => ?matrices, rfl, rfl, fun k => ?slots, rfl, Status.reset_word, rfl, rfl, Lstat.reset_word, rfl, rfl, rfl,
    rfl, rfl, rfl, rfl, rfl, rfl, rfl, rfl, rfl, hinv.fmem_wf, hinv.fmem_bound, ?content⟩
  case valid => simp [State.reset]
  case matrices => constructor <;> simp [State.reset, Config.qm0Reset, Config.qm1Reset]
  case slots => simp [State.reset]
  case content =>
    rintro content rfl a ha
    exact State.read_resetInput (s := { s with agenda := rest }) content ha

end Sys2Proof.Machine
end

section
/-!
Host accesses with no meaning (`20_memory.md` R63, R65; `70_reset_and_hazards.md` R254).
-/

namespace Sys2Proof.Machine

theorem hrsAccessOk_eq_false_iff {width : AccessWidth} {off : Nat} :
    hrsAccessOk width off = false ↔ width ≠ .word ∨ off % 4 ≠ 0 ∨ 4096 ≤ off := by
  have hsize : Config.hrsSize = 4096 := rfl
  simp [hrsAccessOk, ← hsize, imp_iff_not_or, or_assoc]

theorem State.fmemAccessOk_eq_false_iff {s : State} {width : AccessWidth} {a : Nat} :
    s.fmemAccessOk width a = false ↔ width ≠ .byte ∨ s.fmemSize ≤ a := by
  simp [State.fmemAccessOk, imp_iff_not_or]

section
variable {s : State} {width : AccessWidth} {off : Nat} (h : hrsAccessOk width off = false)
include h

theorem State.hrsRead_refused : s.hrsRead width off = .refused .hrsAccess :=
  if_neg (Bool.eq_false_iff.1 h)

theorem State.hrsWrite_refused (w : Word) : s.hrsWrite width off w = .refused .hrsAccess :=
  if_neg (Bool.eq_false_iff.1 h)

end

section
variable {s : State} {width : AccessWidth} {a : Nat} (h : s.fmemAccessOk width a = false)
include h

theorem State.fmemRead_refused : s.fmemRead width a = .refused .fmemAccess :=
  if_neg (Bool.eq_false_iff.1 h)

theorem State.fmemWrite_refused (v : Byte) : s.fmemWrite width a v = .refused .fmemAccess :=
  if_neg (Bool.eq_false_iff.1 h)

end

/-- Settles O48: the stated conditions are exactly those under which the access check of each space fails. -/
theorem meaninglessAccessesRefused : Obligations.MeaninglessAccessesRefused := by
  intro s width n w v
  refine ⟨fun hbad => ?hrs, fun hbad => ?fmem⟩
  case hrs =>
    have hrefused := hrsAccessOk_eq_false_iff.2 hbad
    exact ⟨State.hrsRead_refused hrefused, State.hrsWrite_refused hrefused w⟩
  case fmem =>
    have hrefused := State.fmemAccessOk_eq_false_iff.2 hbad
    exact ⟨State.fmemRead_refused hrefused, State.fmemWrite_refused hrefused v⟩

end Sys2Proof.Machine
end

section
/-!
Encoding and decoding (`30_encoding.md` R81 to R87): the decoder reads back the fields the encoder wrote, and a word
that matches a row of the opcode table is the word of a well-formed command.
-/

namespace Sys2Proof

/-! ### The fields of the word of each format (`30_encoding.md` R81) -/

section
variable (opc : BitVec 8) (d a b q : Sel) (imm : BitVec 12) (imm16 : BitVec 16)

@[simp] theorem opc_formatR : Word.opc (formatR opc d a b imm) = opc := by
  refine BitVec.eq_of_toNat_eq ?_
  rw [opc_toNat, formatR_toNat]
  omega

@[simp] theorem fieldD_formatR : Word.fieldD (formatR opc d a b imm) = d := by
  refine BitVec.eq_of_toNat_eq ?_
  rw [fieldD_toNat, formatR_toNat]
  omega

@[simp] theorem fieldA_formatR : Word.fieldA (formatR opc d a b imm) = a := by
  refine BitVec.eq_of_toNat_eq ?_
  rw [fieldA_toNat, formatR_toNat]
  omega

@[simp] theorem fieldB_formatR : Word.fieldB (formatR opc d a b imm) = b := by
  refine BitVec.eq_of_toNat_eq ?_
  rw [fieldB_toNat, formatR_toNat]
  omega

@[simp] theorem imm12_formatR : Word.imm12 (formatR opc d a b imm) = imm :=
  BitVec.extractLsb'_append_eq_right

/-- `IMM16` is `B` and `IMM12`, here both 0. -/
@[simp] theorem imm16_formatR : Word.imm16 (formatR opc d a 0#4 0#12) = 0 := by
  refine BitVec.eq_of_toNat_eq ?_
  rw [imm16_toNat, formatR_toNat]
  simp only [BitVec.toNat_ofNat, BitVec.ofNat_eq_ofNat]
  omega

/-- `IMM12` is its upper eight bits and the matrix selector of ENHF (`30_encoding.md` R84). -/
theorem enhfZero_append_fieldQ (w : Word) : Word.enhfZero w ++ Word.fieldQ w = Word.imm12 w :=
  BitVec.extractLsb'_append_extractLsb'_eq_extractLsb' rfl

theorem bitVec_append_inj {m n : Nat} {x x' : BitVec m} {y y' : BitVec n} (h : x ++ y = x' ++ y') :
    x = x' ∧ y = y' := by
  have hhigh := congrArg (BitVec.extractLsb' n m) h
  have hlow := congrArg (BitVec.extractLsb' 0 n) h
  rw [BitVec.extractLsb'_append_eq_left, BitVec.extractLsb'_append_eq_left] at hhigh
  rw [BitVec.extractLsb'_append_eq_right, BitVec.extractLsb'_append_eq_right] at hlow
  exact ⟨hhigh, hlow⟩

theorem enhf_fields : Word.enhfZero (formatR opc d a b (0#8 ++ q)) = 0 ∧
    Word.fieldQ (formatR opc d a b (0#8 ++ q)) = q :=
  bitVec_append_inj ((enhfZero_append_fieldQ _).trans (imm12_formatR opc d a b _))

@[simp] theorem opc_formatZ : Word.opc (formatZ opc) = opc := BitVec.extractLsb'_append_eq_left

@[simp] theorem zeros_formatZ : (formatZ opc).extractLsb' 0 24 = 0 := BitVec.extractLsb'_append_eq_right

@[simp] theorem opc_formatI : Word.opc (formatI opc d imm16) = opc := by
  refine BitVec.eq_of_toNat_eq ?_
  rw [opc_toNat, formatI_toNat]
  omega

@[simp] theorem fieldD_formatI : Word.fieldD (formatI opc d imm16) = d := by
  refine BitVec.eq_of_toNat_eq ?_
  rw [fieldD_toNat, formatI_toNat]
  omega

@[simp] theorem fieldA_formatI : Word.fieldA (formatI opc d imm16) = 0 := by
  refine BitVec.eq_of_toNat_eq ?_
  rw [fieldA_toNat, formatI_toNat]
  simp only [BitVec.toNat_ofNat, BitVec.ofNat_eq_ofNat]
  omega

@[simp] theorem imm16_formatI : Word.imm16 (formatI opc d imm16) = imm16 := BitVec.extractLsb'_append_eq_right

end

/-! ### The word of a command decoded -/

/-- Of the word of any command the decoder reads that command, and accepts it when its selectors are in range. -/
theorem decode_encode (i : Instr) : decode (encode i) = accept i.wellFormed true i := by
  cases i
  case nop | clrerr | sreset | linit | lopen | lstep | lrun =>
    simp [encode, decode, Instr.wellFormed, opc_formatZ, zeros_formatZ]
  case qmfill => simp [encode, decode, Instr.wellFormed, opc_formatI, fieldA_formatI]
  case fdct | idct | clip | ldb | stb | bitdep => simp [encode, decode, Instr.wellFormed, opc_formatR, imm16_formatR]
  case quant | dequant | sub | add | basef => simp [encode, decode, Instr.wellFormed, opc_formatR, imm12_formatR]
  case enhf => simp [encode, decode, Instr.wellFormed, opc_formatR, enhf_fields]

/-- Settles O1: a well-formed command's word decodes to it. -/
theorem decodeOfEncode : Obligations.DecodeOfEncode := fun i hwf =>
  (decode_encode i).trans (accept_eq_ok.2 ⟨hwf, rfl, rfl⟩)

/-- Settles O2: decoding inverted. -/
theorem encodeOfDecode : Obligations.EncodeOfDecode := fun _ _ => encode_of_decode

/-! ### A word that matches a row (`30_encoding.md` R86) -/

theorem formatR_inj {opc opc' : BitVec 8} {d d' a a' b b' : Sel} {imm imm' : BitVec 12}
    (h : formatR opc d a b imm = formatR opc' d' a' b' imm') :
    opc = opc' ∧ d = d' ∧ a = a' ∧ b = b' ∧ imm = imm' :=
  ⟨by simpa using congrArg Word.opc h, by simpa using congrArg Word.fieldD h, by simpa using congrArg Word.fieldA h,
    by simpa using congrArg Word.fieldB h, by simpa using congrArg Word.imm12 h⟩

theorem formatR_and (opc opc' : BitVec 8) (d d' a a' b b' : Sel) (imm imm' : BitVec 12) :
    formatR opc d a b imm &&& formatR opc' d' a' b' imm' =
      formatR (opc &&& opc') (d &&& d') (a &&& a') (b &&& b') (imm &&& imm') := by
  have happend : ((opc ++ d ++ a ++ b ++ imm) &&& (opc' ++ d' ++ a' ++ b' ++ imm') : BitVec (8 + 4 + 4 + 4 + 12)) =
      (opc &&& opc') ++ (d &&& d') ++ (a &&& a') ++ (b &&& b') ++ (imm &&& imm') := by
    simp only [BitVec.and_append]
  exact happend

theorem isBlock_of_and_eq_zero : ∀ {r : Sel}, r &&& 0xC#4 = 0#4 → Sel.isBlock r = true := by decide

theorem isSlot_of_and_eq_zero : ∀ {f : Sel}, f &&& 0xC#4 = 0#4 → Sel.isSlot f = true := by decide

theorem isMatrix_of_and_eq_zero : ∀ {q : Sel}, q &&& 0xE#4 = 0#4 → Sel.isMatrix q = true := by decide

theorem eq_of_and_allOnes {n : Nat} {x y : BitVec n} (h : x &&& BitVec.allOnes n = y) : x = y :=
  BitVec.and_allOnes.symm.trans h

theorem beq_zero_of_and_allOnes {n : Nat} {x : BitVec n} (h : x &&& BitVec.allOnes n = 0) : (x == 0) = true :=
  beq_iff_eq.2 (eq_of_and_allOnes h)

section
variable {w : Word} {opc : BitVec 8}

/-- A word matches a row of the opcode `opc` field by field: the mask holds the whole opcode, and the match is 0
outside it. -/
theorem fields_of_row (md ma mb : Sel) (mi : BitVec 12)
    (h : w &&& formatR 0xFF#8 md ma mb mi = formatR opc 0#4 0#4 0#4 0#12) :
    (Word.opc w).toNat = opc.toNat ∧ Word.fieldD w &&& md = 0#4 ∧ Word.fieldA w &&& ma = 0#4 ∧
      Word.fieldB w &&& mb = 0#4 ∧ Word.imm12 w &&& mi = 0#12 := by
  rw [← formatR_fields w, formatR_and] at h
  obtain ⟨hop, hfields⟩ := formatR_inj h
  exact ⟨congrArg BitVec.toNat (eq_of_and_allOnes hop), hfields⟩

/-- The rows with two selectors of range 0 to 3, block registers or slots: FDCT, IDCT, CLIP, LDB, STB. -/
theorem two_selectors_of_row (h : w &&& 0xFFCCFFFF#32 = formatR opc 0#4 0#4 0#4 0#12) :
    (Sel.isBlock (Word.fieldD w) && Sel.isBlock (Word.fieldA w)) = true ∧
      formatR opc (Word.fieldD w) (Word.fieldA w) 0 0 = w := by
  obtain ⟨hop, hD, hA, hB, himm⟩ := fields_of_row 0xC#4 0xC#4 0xF#4 0xFFF#12 h
  refine ⟨Bool.and_eq_true_iff.2 ⟨isBlock_of_and_eq_zero hD, isBlock_of_and_eq_zero hA⟩, ?_⟩
  have hR := formatR_of_imm12 hop (beq_zero_of_and_allOnes himm)
  rwa [eq_of_and_allOnes hB] at hR

/-- The rows with two selectors of range 0 to 3 and a matrix: QUANT, DEQUANT, BASEF. -/
theorem two_selectors_matrix_of_row (h : w &&& 0xFFCCEFFF#32 = formatR opc 0#4 0#4 0#4 0#12) :
    (Sel.isBlock (Word.fieldD w) && Sel.isBlock (Word.fieldA w) && Sel.isMatrix (Word.fieldB w)) = true ∧
      formatR opc (Word.fieldD w) (Word.fieldA w) (Word.fieldB w) 0 = w := by
  obtain ⟨hop, hD, hA, hB, himm⟩ := fields_of_row 0xC#4 0xC#4 0xE#4 0xFFF#12 h
  refine ⟨?_, formatR_of_imm12 hop (beq_zero_of_and_allOnes himm)⟩
  rw [isBlock_of_and_eq_zero hD, isBlock_of_and_eq_zero hA, isMatrix_of_and_eq_zero hB]
  rfl

/-- The rows with three block registers: SUB, ADD. -/
theorem three_blocks_of_row (h : w &&& 0xFFCCCFFF#32 = formatR opc 0#4 0#4 0#4 0#12) :
    (Sel.isBlock (Word.fieldD w) && Sel.isBlock (Word.fieldA w) && Sel.isBlock (Word.fieldB w)) = true ∧
      formatR opc (Word.fieldD w) (Word.fieldA w) (Word.fieldB w) 0 = w := by
  obtain ⟨hop, hD, hA, hB, himm⟩ := fields_of_row 0xC#4 0xC#4 0xC#4 0xFFF#12 h
  refine ⟨?_, formatR_of_imm12 hop (beq_zero_of_and_allOnes himm)⟩
  rw [isBlock_of_and_eq_zero hD, isBlock_of_and_eq_zero hA, isBlock_of_and_eq_zero hB]
  rfl

/-- BITDEP's row. -/
theorem source_of_row (h : w &&& 0xFFFCFFFF#32 = formatR opc 0#4 0#4 0#4 0#12) :
    Sel.isBlock (Word.fieldA w) = true ∧ formatR opc 0 (Word.fieldA w) 0 0 = w := by
  obtain ⟨hop, hD, hA, hB, himm⟩ := fields_of_row 0xF#4 0xC#4 0xF#4 0xFFF#12 h
  refine ⟨isBlock_of_and_eq_zero hA, ?_⟩
  have hR := formatR_of_imm12 hop (beq_zero_of_and_allOnes himm)
  rwa [eq_of_and_allOnes hD, eq_of_and_allOnes hB] at hR

/-- QMFILL's row, which leaves `IMM16` free. -/
theorem matrix_imm16_of_row (h : w &&& 0xFFEF0000#32 = formatR opc 0#4 0#4 0#4 0#12) :
    Sel.isMatrix (Word.fieldD w) = true ∧ formatI opc (Word.fieldD w) (Word.imm16 w) = w := by
  obtain ⟨hop, hD, hA, -, -⟩ := fields_of_row 0xE#4 0xF#4 0#4 0#12 h
  exact ⟨isMatrix_of_and_eq_zero hD, formatI_of_fieldA hop (beq_zero_of_and_allOnes hA)⟩

/-- ENHF's row, whose matrix selector is in `IMM12` (`30_encoding.md` R84). -/
theorem three_slots_matrix_of_row (h : w &&& 0xFFCCCFFE#32 = formatR opc 0#4 0#4 0#4 0#12) :
    (Sel.isSlot (Word.fieldD w) && Sel.isSlot (Word.fieldA w) && Sel.isSlot (Word.fieldB w) &&
        Sel.isMatrix (Word.fieldQ w)) = true ∧
      formatR opc (Word.fieldD w) (Word.fieldA w) (Word.fieldB w) (0#8 ++ Word.fieldQ w) = w := by
  obtain ⟨hop, hD, hA, hB, himm⟩ := fields_of_row 0xC#4 0xC#4 0xC#4 (0xFF#8 ++ 0xE#4) h
  rw [← enhfZero_append_fieldQ, BitVec.and_append] at himm
  obtain ⟨hzero, hQ⟩ := bitVec_append_inj (x' := 0#8) (y' := 0#4) himm
  refine ⟨?_, formatR_of_enhfZero hop (beq_zero_of_and_allOnes hzero)⟩
  rw [isSlot_of_and_eq_zero hD, isSlot_of_and_eq_zero hA, isSlot_of_and_eq_zero hB, isMatrix_of_and_eq_zero hQ]
  rfl

/-- A word that matches a command's row is the word of a well-formed command, with the selectors it holds. -/
theorem exists_encode_of_row (i : Instr) (h : w &&& i.row.mask = i.row.matchWord) :
    ∃ j : Instr, j.wellFormed = true ∧ encode j = w := by
  cases i with
  | nop => exact ⟨.nop, rfl, (eq_of_and_allOnes h).symm⟩
  | clrerr => exact ⟨.clrerr, rfl, (eq_of_and_allOnes h).symm⟩
  | sreset => exact ⟨.sreset, rfl, (eq_of_and_allOnes h).symm⟩
  | fdct => exact ⟨.fdct (Word.fieldD w) (Word.fieldA w), two_selectors_of_row h⟩
  | idct => exact ⟨.idct (Word.fieldD w) (Word.fieldA w), two_selectors_of_row h⟩
  | quant => exact ⟨.quant (Word.fieldD w) (Word.fieldA w) (Word.fieldB w), two_selectors_matrix_of_row h⟩
  | dequant => exact ⟨.dequant (Word.fieldD w) (Word.fieldA w) (Word.fieldB w), two_selectors_matrix_of_row h⟩
  | clip => exact ⟨.clip (Word.fieldD w) (Word.fieldA w), two_selectors_of_row h⟩
  | sub => exact ⟨.sub (Word.fieldD w) (Word.fieldA w) (Word.fieldB w), three_blocks_of_row h⟩
  | add => exact ⟨.add (Word.fieldD w) (Word.fieldA w) (Word.fieldB w), three_blocks_of_row h⟩
  | bitdep => exact ⟨.bitdep (Word.fieldA w), source_of_row h⟩
  | ldb => exact ⟨.ldb (Word.fieldD w) (Word.fieldA w), two_selectors_of_row h⟩
  | stb => exact ⟨.stb (Word.fieldD w) (Word.fieldA w), two_selectors_of_row h⟩
  | qmfill => exact ⟨.qmfill (Word.fieldD w) (Word.imm16 w), matrix_imm16_of_row h⟩
  | basef => exact ⟨.basef (Word.fieldD w) (Word.fieldA w) (Word.fieldB w), two_selectors_matrix_of_row h⟩
  | enhf =>
    exact ⟨.enhf (Word.fieldD w) (Word.fieldA w) (Word.fieldB w) (Word.fieldQ w), three_slots_matrix_of_row h⟩
  | linit => exact ⟨.linit, rfl, (eq_of_and_allOnes h).symm⟩
  | lopen => exact ⟨.lopen, rfl, (eq_of_and_allOnes h).symm⟩
  | lstep => exact ⟨.lstep, rfl, (eq_of_and_allOnes h).symm⟩
  | lrun => exact ⟨.lrun, rfl, (eq_of_and_allOnes h).symm⟩

/-- A word that matches a row of the opcode table decodes. -/
theorem decode_of_row {row : OpcodeRow} (hrow : row ∈ opcodeTable) (h : w &&& row.mask = row.matchWord) :
    ∃ i, decode w = .ok i := by
  obtain ⟨i, -, rfl⟩ := List.mem_map.1 hrow
  obtain ⟨j, hwf, rfl⟩ := exists_encode_of_row i h
  exact ⟨j, decodeOfEncode j hwf⟩

end

/-- Settles O3: what decodes matches its row, and what matches a row decodes. -/
theorem decodeAcceptsExactlyTheTable : Obligations.DecodeAcceptsExactlyTheTable := by
  intro w
  cases hd : decode w with
  | ok i => exact .inl ⟨i, rfl, row_of_decode hd⟩
  | error r =>
    refine .inr ⟨⟨r, rfl⟩, fun row hrow hmatch => ?_⟩
    obtain ⟨i, hok⟩ := decode_of_row hrow hmatch
    exact nomatch hd.symm.trans hok

/-- Settles O4: each of the ten words is the word of its command. -/
theorem workedEncodingsDecode : Obligations.WorkedEncodingsDecode :=
  ⟨decodeOfEncode (.fdct 1 0) rfl, decodeOfEncode (.dequant 1 1 1) rfl, decodeOfEncode (.sub 2 0 1) rfl,
    decodeOfEncode (.bitdep 2) rfl, decodeOfEncode (.stb 1 0) rfl, decodeOfEncode (.qmfill 1 4) rfl,
    decodeOfEncode (.basef 1 0 0) rfl, decodeOfEncode (.enhf 2 0 1 1) rfl, decodeOfEncode .lopen rfl,
    decodeOfEncode .lrun rfl⟩

end Sys2Proof

namespace Sys2Proof.Machine

/-- Fault entry with a pending word, every field written out (`60_exceptions.md` R214). -/
theorem State.takeFault_of_pend {s : State} {w : Word} (hp : s.pend = some w) (c : FaultCode) :
    s.takeFault c = { s with
      status := { s.status with err := true, errcode := c.code, busy := false }
      errinfo := w
      pend := none } := by
  simp only [State.takeFault_eq_faultOf, faultOf, hp, Option.getD_some]

/-- Settles O6: a word that matches no row does not decode, and the unit then takes the fault. -/
theorem illegalWordFaults : Obligations.IllegalWordFaults := by
  intro s w hp hrows
  obtain ⟨r, hd⟩ := decode_eq_error hrows
  exact (State.unitTurn_of_illegal hp hd).trans (congrArg _ (State.takeFault_of_pend hp .illegal))

end Sys2Proof.Machine
end

section
/-!
The meaning of QMFILL (`40_config.md` R101). The model forms the fill word by `enc32`; that this word stands for
the scale exactly rests on every 16-bit integer being a member of `F32`.
-/

namespace Sys2Proof.Machine

/-! ### The value of a small integer is exact in binary32 (`00_scope.md` R10) -/

/-- An integer of at most 24 bits needs no rounding. -/
theorem inF32_ofInteger {n : Nat} (hn : n ≤ 2 ^ 24) : inF32 (ofInteger n) = true := by
  have habs : (ofInteger n).natAbs = n * one32 := by
    rw [ofInteger, Int.natAbs_mul, Int.natAbs_natCast, Int.natAbs_natCast]
  refine inF32_of_natAbs_eq (k := 149) habs hn ?_
  rw [habs, limit32_eq (p := 128) (q := 149) rfl, pow_add]
  exact Nat.mul_lt_mul_of_pos_right (by omega) one32_pos

/-! ### QMFILL: the selector, then the scale -/

theorem exec_qmfill_illegal {qk : Sel} (h : ¬ qk.toNat < 2) (n : BitVec 16) (s : State) :
    exec (.qmfill qk n) s = .next (s.takeFault .illegal) := by
  change s.conclude (matrixSel qk >>= _) = _
  rw [matrixSel_illegal h]
  rfl

theorem exec_qmfill_sel (q : Fin 2) (n : BitVec 16) (s : State) :
    exec (.qmfill (sel q) n) s =
      s.conclude (if n = 0 then .error .qm else .ok (s.fillMatrix q (enc32 (ofInteger n.toNat)))) := by
  change s.conclude (matrixSel (sel q) >>= _) = _
  rw [matrixSel_sel]
  by_cases hn : n = 0
  · rw [if_pos hn, hn]
    rfl
  · rw [if_neg hn]
    exact congrArg s.conclude (if_neg hn)

/-- Settles O13: an illegal selector, a scale of 0, and the fill, whose word is exact since a scale has 16 bits. -/
theorem qmfillOutcome : Obligations.QmfillOutcome := by
  intro s n
  refine ⟨fun qk hqk => exec_qmfill_illegal hqk n s, fun q hn => ?_, fun q hn => ?_⟩
  · rw [exec_qmfill_sel, if_pos hn, State.conclude_error, State.takeFault_eq_faultOf]
  · have hexact : inF32 (ofInteger n.toNat) = true := inF32_ofInteger (by omega)
    refine ⟨enc32 (ofInteger n.toNat), finite32_enc32 hexact, dec32_enc32 hexact, ?_⟩
    rw [exec_qmfill_sel, if_neg hn, State.conclude_ok, State.complete_eq_endOf, State.fillMatrix]

end Sys2Proof.Machine
end

section
/-!
The outcomes of the transform-quantization unit's commands (`41_tqu.md` section 3). FDCT, IDCT and CLIP have one
block source, QUANT and DEQUANT a block source and a matrix: each form's checks are settled once, in their order,
for any computation `f` that answers exactly a relation `R`.
-/

namespace Sys2Proof.Machine

/-! ### Commands with one block source -/

theorem State.unaryBlock_illegal {rd ra : Sel} (h : ¬ (rd.toNat < 4 ∧ ra.toNat < 4)) (s : State)
    (f : Block → Option Block) : s.unaryBlock rd ra f = .error .illegal := by
  by_cases hd : rd.toNat < 4
  · exact except_bind_error.2 (.inr ⟨_, blockSel_eq hd,
      except_bind_error.2 (.inl (blockSel_illegal fun ha => h ⟨hd, ha⟩))⟩)
  · exact except_bind_error.2 (.inl (blockSel_illegal hd))

theorem State.unaryBlock_sel (s : State) (d a : Fin 4) (f : Block → Option Block) :
    s.unaryBlock (sel d) (sel a) f = (do
      let X ← s.srcBlock a
      let Y ← settled (f X)
      .ok (s.writeBlock d Y)) := by
  unfold State.unaryBlock
  rw [blockSel_sel, blockSel_sel]
  rfl

/-- The outcomes of a command with one block source, its faults in the order of `60_exceptions.md` R213. -/
theorem State.unaryBlock_outcome {f : Block → Option Block} {R : Block → Block → Prop}
    (hf : ∀ X Y, f X = some Y ↔ R X Y) (s : State) :
    (∀ rd ra : Sel, ¬ (rd.toNat < 4 ∧ ra.toNat < 4) →
      s.conclude (s.unaryBlock rd ra f) = .next (faultOf s .illegal)) ∧
    ∀ d a : Fin 4,
      (¬ AllValid s a → s.conclude (s.unaryBlock (sel d) (sel a) f) = .next (faultOf s .uninit)) ∧
      (AllValid s a → ¬ AllFinite s a →
        s.conclude (s.unaryBlock (sel d) (sel a) f) = .next (faultOf s .num)) ∧
      (AllValid s a → AllFinite s a → (¬ ∃ Y, R (valuesOf s a) Y) →
        s.conclude (s.unaryBlock (sel d) (sel a) f) = .next (faultOf s .num)) ∧
      (∀ Y, AllValid s a → AllFinite s a → R (valuesOf s a) Y →
        s.conclude (s.unaryBlock (sel d) (sel a) f) = .next (endOf (blockWritten s d Y))) := by
  refine ⟨fun rd ra hsel => ?_, fun d a => ?_⟩
  · rw [State.unaryBlock_illegal hsel, State.conclude_error, State.takeFault_eq_faultOf]
  · rw [State.unaryBlock_sel]
    refine ⟨fun hv => ?_, fun hv hfin => ?_, fun hv hfin hnone => ?_, fun Y hv hfin hY => ?_⟩
    · rw [State.srcBlock_uninit hv]
      rfl
    · rw [State.srcBlock_num hv hfin]
      rfl
    · have hover : f (valuesOf s a) = none :=
        Option.eq_none_iff_forall_ne_some.2 fun Y hY => hnone ⟨Y, (hf _ _).1 hY⟩
      rw [State.srcBlock_values hv hfin]
      change s.conclude (settled (f (valuesOf s a)) >>= _) = _
      rw [hover]
      rfl
    · rw [State.srcBlock_values hv hfin]
      change s.conclude (settled (f (valuesOf s a)) >>= _) = _
      rw [(hf _ _).2 hY]
      rfl

/-- Settles O14: FDCT computes the forward transform. -/
theorem fdctOutcome : Obligations.FdctOutcome := fun s =>
  s.unaryBlock_outcome fun _ _ => fdct_iff_isForward

/-- Settles O15: IDCT computes the inverse transform. -/
theorem idctOutcome : Obligations.IdctOutcome := fun s =>
  s.unaryBlock_outcome fun _ _ => idct_iff_isInverse

theorem clipBlock_valuesOf (s : State) (a : Fin 4) :
    clipBlock (valuesOf s a) =
      Vector.ofFn fun e : Fin 64 => min (max (dec32 s.br[a][e]) 0) (255 * 2 ^ 149) := by
  simp only [clipBlock, valuesOf, Fin.getElem_fin, Vector.getElem_ofFn, clamp_eq]

/-- Settles O18: CLIP always has its result, the clamped block. -/
theorem clipOutcome : Obligations.ClipOutcome := by
  intro s
  obtain ⟨hillegal, hsel⟩ := s.unaryBlock_outcome (f := fun X => some (clipBlock X))
    (R := fun X Y => clipBlock X = Y) fun X Y => Option.some_inj
  refine ⟨hillegal, fun d a => ?_⟩
  obtain ⟨huninit, hnum, -, hwritten⟩ := hsel d a
  exact ⟨huninit, hnum, fun hv hfin => hwritten _ hv hfin (clipBlock_valuesOf s a)⟩

/-! ### Commands with a block source and a matrix -/

theorem State.matrixBlock_illegal {rd ra qk : Sel} (h : ¬ (rd.toNat < 4 ∧ ra.toNat < 4 ∧ qk.toNat < 2))
    (s : State) (f : Block → Block → Option Block) : s.matrixBlock rd ra qk f = .error .illegal := by
  by_cases hd : rd.toNat < 4
  · refine except_bind_error.2 (.inr ⟨_, blockSel_eq hd, ?_⟩)
    by_cases ha : ra.toNat < 4
    · exact except_bind_error.2 (.inr ⟨_, blockSel_eq ha,
        except_bind_error.2 (.inl (matrixSel_illegal fun hq => h ⟨hd, ha, hq⟩))⟩)
    · exact except_bind_error.2 (.inl (blockSel_illegal ha))
  · exact except_bind_error.2 (.inl (blockSel_illegal hd))

theorem State.matrixBlock_sel (s : State) (d a : Fin 4) (q : Fin 2) (f : Block → Block → Option Block) :
    s.matrixBlock (sel d) (sel a) (sel q) f = (do
      let X ← s.srcBlock a
      let M ← s.matrix q
      let Y ← settled (f X M)
      .ok (s.writeBlock d Y)) := by
  unfold State.matrixBlock
  rw [blockSel_sel, blockSel_sel, matrixSel_sel]
  rfl

/-- The outcomes of a command with a block source and a matrix, the block checked before the matrix. -/
theorem State.matrixBlock_outcome {f : Block → Block → Option Block} {R : Block → Block → Block → Prop}
    (hf : ∀ X M Y, f X M = some Y ↔ R X M Y) (s : State) :
    (∀ rd ra qk : Sel, ¬ (rd.toNat < 4 ∧ ra.toNat < 4 ∧ qk.toNat < 2) →
      s.conclude (s.matrixBlock rd ra qk f) = .next (faultOf s .illegal)) ∧
    ∀ (d a : Fin 4) (q : Fin 2),
      (¬ AllValid s a → s.conclude (s.matrixBlock (sel d) (sel a) (sel q) f) = .next (faultOf s .uninit)) ∧
      (AllValid s a → ¬ AllFinite s a →
        s.conclude (s.matrixBlock (sel d) (sel a) (sel q) f) = .next (faultOf s .num)) ∧
      (AllValid s a → AllFinite s a → ¬ MatrixReady s q →
        s.conclude (s.matrixBlock (sel d) (sel a) (sel q) f) = .next (faultOf s .qm)) ∧
      (AllValid s a → AllFinite s a → MatrixReady s q → (¬ ∃ Y, R (valuesOf s a) (entriesOf s q) Y) →
        s.conclude (s.matrixBlock (sel d) (sel a) (sel q) f) = .next (faultOf s .num)) ∧
      (∀ Y, AllValid s a → AllFinite s a → MatrixReady s q → R (valuesOf s a) (entriesOf s q) Y →
        s.conclude (s.matrixBlock (sel d) (sel a) (sel q) f) = .next (endOf (blockWritten s d Y))) := by
  refine ⟨fun rd ra qk hsel => ?_, fun d a q => ?_⟩
  · rw [State.matrixBlock_illegal hsel, State.conclude_error, State.takeFault_eq_faultOf]
  · rw [State.matrixBlock_sel]
    refine ⟨fun hv => ?_, fun hv hfin => ?_, fun hv hfin hM => ?_, fun hv hfin hM hnone => ?_,
      fun Y hv hfin hM hY => ?_⟩
    · rw [State.srcBlock_uninit hv]
      rfl
    · rw [State.srcBlock_num hv hfin]
      rfl
    · rw [State.srcBlock_values hv hfin, State.matrix_qm hM]
      rfl
    · have hover : f (valuesOf s a) (entriesOf s q) = none :=
        Option.eq_none_iff_forall_ne_some.2 fun Y hY => hnone ⟨Y, (hf _ _ _).1 hY⟩
      rw [State.srcBlock_values hv hfin, State.matrix_entries hM]
      change s.conclude (settled (f (valuesOf s a) (entriesOf s q)) >>= _) = _
      rw [hover]
      rfl
    · rw [State.srcBlock_values hv hfin, State.matrix_entries hM]
      change s.conclude (settled (f (valuesOf s a) (entriesOf s q)) >>= _) = _
      rw [(hf _ _ _).2 hY]
      rfl

/-- Settles O16: QUANT computes the quotients rounded twice. -/
theorem quantOutcome : Obligations.QuantOutcome := fun s =>
  s.matrixBlock_outcome fun _ _ _ => quantBlock_iff_isQuant

/-- Settles O17: DEQUANT computes the products rounded once. -/
theorem dequantOutcome : Obligations.DequantOutcome := fun s =>
  s.matrixBlock_outcome fun _ _ _ => dequantBlock_iff_isDequant

end Sys2Proof.Machine
end

section
/-!
Commands store finite words (`41_tqu.md` R111). A block result is stored by `enc32`, which gives a finite word other
than minus zero's for every member of `F32`; so it is enough that every element a command stores is in `F32`.
-/

namespace Sys2Proof.Machine

/-! ### Results in `F32` -/

/-- Every element is in `F32`. -/
def Block.InF32 (X : Block) : Prop := ∀ e : Fin 64, inF32 X[e] = true

/-- A member of `F32` rounded to an integer is in `F32`: it has at most 24 bits, or it is an integer already. -/
theorem inF32_rneInt {t : Int} (ht : inF32 t = true) : inF32 (ofInteger (rneInt t)) = true := by
  rcases le_total t.natAbs (2 ^ 24 * one32) with hsmall | hlarge
  · have habs : |t| ≤ 2 ^ 24 * one32 := by
      rw [← Int.natCast_natAbs]
      exact_mod_cast hsmall
    obtain ⟨hlo, hhi⟩ := abs_le.1 habs
    have hround : -2 ^ 24 ≤ rneInt t ∧ rneInt t ≤ 2 ^ 24 :=
      ⟨le_rneDiv one32_pos (by rwa [neg_mul]), rneDiv_le one32_pos hhi⟩
    rcases Int.natAbs_eq (rneInt t) with hr | hr
    · rw [hr]
      exact inF32_ofInteger (by omega)
    · rw [hr, ofInteger, neg_mul, inF32_neg]
      exact inF32_ofInteger (by omega)
  · have hscale : 149 ≤ scale32 t.natAbs := lt_scale32_iff.2 (by
      rw [one32, ← pow_add] at hlarge
      exact (Nat.pow_le_pow_right two_pos (by omega)).trans hlarge)
    obtain ⟨n, rfl⟩ : (one32 : Int) ∣ t := Int.natCast_dvd.2 ((Nat.pow_dvd_pow 2 hscale).trans (inF32_iff.1 ht).2)
    rw [mul_comm] at ht ⊢
    rwa [rneInt, rneDiv_exact n one32_pos]

theorem inF32_of_quantLane {x m q : Int} (hm : 0 < m) (h : quantLane x m = some q) : inF32 q = true := by
  unfold quantLane at h
  split at h
  · cases h
  · next t ht =>
    cases h
    exact inF32_rneInt (inF32_of_fl32 (by omega) ht)

theorem inF32_fromU8 (n : Byte) : inF32 (fromU8 n) = true := inF32_ofInteger (by omega)

theorem inF32_clamp {v : Int} (hv : inF32 v = true) : inF32 (clamp v) = true := by
  unfold clamp
  rcases min_choice (max v 0) (ofInteger 255) with h | h <;> rw [h]
  · rcases max_choice v 0 with h | h <;> rw [h]
    · exact hv
    · exact inF32_ofInteger (n := 0) (by omega)
  · exact inF32_ofInteger (n := 255) (by omega)

theorem Block.inF32_of_isForward {X Y : Block} (h : IsForward X Y) : Y.InF32 := by
  obtain ⟨T, -, hY⟩ := fdct_eq_some.1 (fdct_iff_isForward.2 h)
  intro e
  have he := settle_eq_some.1 hY e
  simp only [Fin.getElem_fin, Vector.getElem_ofFn] at he
  exact inF32_of_fl32 one32_pos he

theorem Block.inF32_of_isInverse {Y X : Block} (h : IsInverse Y X) : X.InF32 := by
  obtain ⟨T, -, hX⟩ := idct_eq_some.1 (idct_iff_isInverse.2 h)
  intro e
  have he := settle_eq_some.1 hX e
  simp only [Fin.getElem_fin, Vector.getElem_ofFn] at he
  exact inF32_of_fl32 one32_pos he

theorem Block.inF32_clipBlock {X : Block} (hX : X.InF32) : (clipBlock X).InF32 := fun e => by
  simpa [clipBlock] using inF32_clamp (hX e)

theorem State.blockValues_inF32 {s : State} {k : Fin 4} (h : s.blockFinite k = true) :
    (s.blockValues k).InF32 := fun e => by
  have hfin : finite32 s.br[k][e] = true := (of_decide_eq_true h) e
  simpa [State.blockValues] using inF32_dec32 hfin

theorem State.loadBlock_inF32 (s : State) (k : Fin 4) (ch row col : Nat) : (s.loadBlock k ch row col).InF32 :=
  fun e => by simpa [State.loadBlock] using inF32_fromU8 _

theorem Block.inF32_of_dequantBlock {X M Y : Block} (h : dequantBlock X M = some Y) : Y.InF32 := fun e =>
  inF32_of_fl32 one32_pos (lanes_eq_some.1 h e)

theorem Block.inF32_of_subBlock {X Z Y : Block} (h : subBlock X Z = some Y) : Y.InF32 := fun e =>
  inF32_of_fl32 one_pos (lanes_eq_some.1 h e)

theorem Block.inF32_of_addBlock {X Z Y : Block} (h : addBlock X Z = some Y) : Y.InF32 := fun e =>
  inF32_of_fl32 one_pos (lanes_eq_some.1 h e)

theorem Block.inF32_of_quantBlock {X Q : Block} {s : State} {q : Fin 2} (hM : s.matrixLegal q = true)
    (h : quantBlock X (s.matrixValues q) = some Q) : Q.InF32 := fun e => by
  have hpos : 0 < dec32 s.qm[q][e] := ((of_decide_eq_true hM) e).2
  refine inF32_of_quantLane (m := (s.matrixValues q)[e]) ?_ (lanes_eq_some.1 h e)
  simpa [State.matrixValues] using hpos

/-! ### The block registers after a command -/

/-- Every element of a block register whose word differs from `s` to `t` is valid in `t`, with a finite word other
than minus zero's. -/
def StoresFinite (s t : State) : Prop := ∀ (k : Fin 4) (e : Fin 64), t.br[k][e] ≠ s.br[k][e] →
  finite32 t.br[k][e] = true ∧ t.br[k][e] ≠ 0x80000000#32 ∧ t.brv[k][e] = true

theorem StoresFinite.of_br_eq {s t : State} (h : t.br = s.br) : StoresFinite s t :=
  fun k e hne => absurd (by rw [h]) hne

theorem StoresFinite.writeBlock {s : State} {d : Fin 4} {Y : Block} (hY : Y.InF32) :
    StoresFinite s (s.writeBlock d Y) := by
  intro k e hne
  rw [State.writeBlock_br] at hne ⊢
  rw [State.writeBlock_brv]
  rcases eq_or_ne d k with rfl | hk
  · simpa using ⟨finite32_enc32 (hY e), enc32_ne_negZero (hY e)⟩
  · exact absurd (by simp [Vector.getElem_set_ne _ _ (Fin.val_ne_of_ne hk)]) hne

theorem StoresFinite.of_conclude {s t : State} {r : Except FaultCode State} (hr : Completes (StoresFinite s) r)
    (h : s.conclude r = .next t) : StoresFinite s t :=
  Completes.conclude (P := StoresFinite s) hr (fun c => .of_br_eq (s.takeFault_br c)) h

/-- A command with one block source whose computation answers members of `F32` for a source in `F32`. -/
theorem State.unaryBlock_storesFinite {f : Block → Option Block}
    (hf : ∀ X Y : Block, X.InF32 → f X = some Y → Y.InF32) (s : State) (rd ra : Sel) :
    Completes (StoresFinite s) (s.unaryBlock rd ra f) := fun u hu => by
  obtain ⟨d, a, Y, -, -, -, hfin, hY, rfl⟩ := State.unaryBlock_ok.1 hu
  exact .writeBlock (hf _ _ (State.blockValues_inF32 hfin) hY)

/-- A command with a block source and a matrix whose computation answers members of `F32` for a legal matrix. -/
theorem State.matrixBlock_storesFinite {s : State} {f : Block → Block → Option Block}
    (hf : ∀ (X Y : Block) (q : Fin 2), s.matrixLegal q = true → f X (s.matrixValues q) = some Y → Y.InF32)
    (rd ra qk : Sel) : Completes (StoresFinite s) (s.matrixBlock rd ra qk f) := fun u hu => by
  obtain ⟨d, a, q, Y, -, -, -, -, -, hM, hY, rfl⟩ := State.matrixBlock_ok.1 hu
  exact .writeBlock (hf _ _ q hM hY)

/-- A command with two block sources whose computation answers members of `F32`. -/
theorem State.binaryBlock_storesFinite {f : Block → Block → Option Block}
    (hf : ∀ X Z Y : Block, f X Z = some Y → Y.InF32) (s : State) (rd ra rb : Sel) :
    Completes (StoresFinite s) (s.binaryBlock rd ra rb f) := fun u hu => by
  obtain ⟨d, a, b, Y, -, -, -, -, -, -, -, hY, rfl⟩ := State.binaryBlock_ok.1 hu
  exact .writeBlock (hf _ _ _ hY)

theorem execLdb_storesFinite {rd fs : Sel} {s t : State} : execLdb rd fs s = .next t → StoresFinite s t :=
  .of_conclude <| .bind fun _ _ => .bind fun _ _ => .bind fun _ _ => .ok (.writeBlock (s.loadBlock_inF32 _ _ _ _))

theorem execBitdep_storesFinite {ra : Sel} {s t : State} : execBitdep ra s = .next t → StoresFinite s t :=
  .of_conclude <| .bind fun _ _ => .bind fun _ _ => .ok (.of_br_eq rfl)

theorem execStb_storesFinite {fd rs : Sel} {s t : State} : execStb fd rs s = .next t → StoresFinite s t :=
  .of_conclude <| .bind fun _ _ => .bind fun _ _ => .bind fun _ _ => .bind fun _ _ => .ok (.of_br_eq rfl)

theorem execBasef_storesFinite {fd fs qk : Sel} {s t : State} :
    execBasef fd fs qk s = .next t → StoresFinite s t :=
  .of_conclude <| .bind fun _ _ => .bind fun _ _ => .bind fun _ _ => .bind fun _ _ => .bind fun _ _ =>
    .bind fun _ _ => .ok (.of_br_eq rfl)

theorem execEnhf_storesFinite {fd fo fb qk : Sel} {s t : State} :
    execEnhf fd fo fb qk s = .next t → StoresFinite s t :=
  .of_conclude <| .bind fun _ _ => .bind fun _ _ => .bind fun _ _ => .bind fun _ _ => .bind fun _ _ =>
    .bind fun _ _ => .bind fun _ _ => .ok (.of_br_eq rfl)

theorem execQmfill_storesFinite {qk : Sel} {scale : BitVec 16} {s t : State} :
    execQmfill qk scale s = .next t → StoresFinite s t :=
  .of_conclude <| .bind fun k _ => by
    dsimp only
    split
    · exact .bind fun _ h => nomatch h
    · exact .ok (.of_br_eq (s.fillMatrix_br k _))

theorem SameDatapath.storesFinite {s t : State} (h : SameDatapath s t) : StoresFinite s t := by
  obtain ⟨hbr, -⟩ := h
  exact .of_br_eq hbr

/-- Every command but SRESET. The combiner's commands leave the datapath. -/
theorem exec_storesFinite {i : Instr} {s t : State} (h : exec i s = .next t) (hreset : i ≠ .sreset) :
    StoresFinite s t := by
  cases i with
  | nop | clrerr => cases h; exact .of_br_eq rfl
  | sreset => exact absurd rfl hreset
  | fdct =>
    exact .of_conclude (s.unaryBlock_storesFinite
      (fun _ _ _ hY => Block.inF32_of_isForward (fdct_iff_isForward.1 hY)) _ _) h
  | idct =>
    exact .of_conclude (s.unaryBlock_storesFinite
      (fun _ _ _ hY => Block.inF32_of_isInverse (idct_iff_isInverse.1 hY)) _ _) h
  | clip =>
    exact .of_conclude (s.unaryBlock_storesFinite
      (fun _ _ hX hY => Option.some.inj hY ▸ Block.inF32_clipBlock hX) _ _) h
  | quant => exact .of_conclude (State.matrixBlock_storesFinite (fun _ _ _ => Block.inF32_of_quantBlock) _ _ _) h
  | dequant =>
    exact .of_conclude (State.matrixBlock_storesFinite (fun _ _ _ _ => Block.inF32_of_dequantBlock) _ _ _) h
  | sub => exact .of_conclude (s.binaryBlock_storesFinite (fun _ _ _ => Block.inF32_of_subBlock) _ _ _) h
  | add => exact .of_conclude (s.binaryBlock_storesFinite (fun _ _ _ => Block.inF32_of_addBlock) _ _ _) h
  | bitdep => exact execBitdep_storesFinite h
  | ldb => exact execLdb_storesFinite h
  | stb => exact execStb_storesFinite h
  | qmfill => exact execQmfill_storesFinite h
  | basef => exact execBasef_storesFinite h
  | enhf => exact execEnhf_storesFinite h
  | linit | lopen | lstep | lrun => exact ((exec_effect h).sameDatapath rfl).storesFinite

/-- Settles O58. -/
theorem commandsStoreFiniteWords : Obligations.CommandsStoreFiniteWords := fun _ _ _ k e h hreset =>
  exec_storesFinite h hreset k e

end Sys2Proof.Machine
end

section
/-!
The error of one rounding to binary32 (`00_scope.md` R11), and samples near a byte (R12). `fl32_error` is relative,
half a unit in the 24th place, with half the subnormal spacing beside it; `exists_fl32` says when there is a result.
-/

namespace Sys2Proof.Machine

/-- The rounded magnitude is within half a spacing, and a spacing above the subnormal one is at most `2^-23` of the
fraction. -/
theorem roundedMagnitude_error (a : Nat) {den : Nat} (hd : 0 < den) :
    2 ^ 24 * |roundedMagnitude a den * den - a| ≤ a + 2 ^ 23 * den := by
  have hstep : 2 ^ 23 * (den * 2 ^ scale32 (a / den)) ≤ a + 2 ^ 23 * den := by
    rcases Nat.eq_zero_or_pos (scale32 (a / den)) with hk | hk
    · simp [hk]
    · calc 2 ^ 23 * (den * 2 ^ scale32 (a / den)) = 2 ^ (scale32 (a / den) + 23) * den := by ring
        _ ≤ a := (Nat.le_div_iff_mul_le hd).1 (le_of_scale32_pos hk)
        _ ≤ a + 2 ^ 23 * den := Nat.le_add_right _ _
  have hdk : 0 < den * 2 ^ scale32 (a / den) := by positivity
  rw [roundedMagnitude_mul]
  obtain ⟨hhi, hlo⟩ := rneDiv_near a hdk
  generalize den * 2 ^ scale32 (a / den) = d at hstep hhi hlo
  have hhalf : 2 * |rneDiv a d * d - a| ≤ d := by
    rw [← abs_two, ← abs_mul]
    exact abs_le.2 ⟨hlo, hhi⟩
  omega

/-- The sign plays no part in the error of a rounding. -/
theorem abs_error_of_fl32 {num v : Int} {den : Nat} (h : fl32 num den = some v) :
    |v * den - num| = |roundedMagnitude num.natAbs den * den - num.natAbs| := by
  obtain ⟨-, rfl⟩ := fl32_eq_some_iff.1 h
  rw [Int.natCast_natAbs]
  split
  · next hneg => rw [abs_of_neg hneg, ← abs_neg]; ring_nf
  · next hpos => rw [abs_of_nonneg (not_lt.1 hpos)]

theorem fl32_error {num v : Int} {den : Nat} (hd : 0 < den) (h : fl32 num den = some v) :
    2 ^ 24 * |v * den - num| ≤ |num| + 2 ^ 23 * den := by
  rw [abs_error_of_fl32 h, ← Int.natCast_natAbs num]
  exact roundedMagnitude_error num.natAbs hd

/-- A fraction below 2^127 has a rounding. -/
theorem exists_fl32 {num : Int} {den b : Nat} (hd : 0 < den) (hnum : |num| ≤ b * den) (hb : b < 2 ^ 127 * 2 ^ 149) :
    ∃ v, fl32 num den = some v := by
  have hlimit : 2 ^ 127 * 2 ^ 149 ≤ 2 ^ 277 - 2 ^ 252 := by
    rw [show 277 = 128 + 149 from rfl, show 252 = 103 + 149 from rfl, pow_add 2 128, pow_add 2 103]
    norm_num
  refine Option.ne_none_iff_exists'.1 fun hnone => ?_
  have hover := (overflowThreshold num den hd).1 hnone
  have hlt : b * den < (2 ^ 277 - 2 ^ 252) * den := Nat.mul_lt_mul_of_pos_right (hb.trans_le hlimit) hd
  rw [← Int.natCast_natAbs] at hnum
  exact absurd (hlt.trans_le hover) (not_lt.2 (by exact_mod_cast hnum))

/-- A result is at most twice the fraction in magnitude, since 0 is no nearer. -/
theorem abs_le_of_fl32 {num v : Int} {den b : Nat} (hd : 0 < den) (h : fl32 num den = some v)
    (hnum : |num| ≤ b * den) : |v| ≤ 2 * b := by
  have hnear := fl32_nearest (w := 0) hd h (inF32_ofInteger (n := 0) (by omega))
  rw [zero_mul, zero_sub, abs_neg] at hnear
  have hpos : (0 : Int) < den := by exact_mod_cast hd
  refine le_of_mul_le_mul_right ?_ hpos
  calc |v| * den = |v * den| := by rw [abs_mul, Nat.abs_cast]
    _ ≤ |v * den - num| + |num| := by simpa using abs_add_le (v * den - num) num
    _ ≤ 2 * b * den := by linarith

/-- The value of the integer `n` is not negative. -/
theorem sample_nonneg (n : Nat) : (0 : Int) ≤ n * 2 ^ 149 := by positivity

theorem abs_sample_le {n b : Nat} (h : n ≤ b) : |(n * 2 ^ 149 : Int)| ≤ (b * 2 ^ 149 : Nat) := by
  rw [abs_of_nonneg (sample_nonneg n)]
  exact_mod_cast Nat.mul_le_mul_right _ h

/-- A value less than half from a byte is stored as that byte. -/
theorem toU8_of_near {v : Int} {n : Nat} (hn : n ≤ 255) (h : 2 * |v - n * 2 ^ 149| < 2 ^ 149) :
    (toU8 v).toNat = n := by
  have hclamp : |clamp v - n * one32| ≤ |v - n * one32| := by
    have h0 : 0 ≤ (n : Int) * one32 := by positivity
    have h255 : (n : Int) * one32 ≤ 255 * one32 := by gcongr; omega
    have hle := le_abs_self (v - n * one32)
    have hge := neg_abs_le (v - n * one32)
    unfold clamp ofInteger
    generalize (n : Int) * one32 = x at *
    generalize (255 : Int) * one32 = m at *
    exact abs_le.2 ⟨by omega, by omega⟩
  have hround : rneDiv (clamp v) one32 = n :=
    rneDiv_eq_of_near (lt_of_le_of_lt (mul_le_mul_of_nonneg_left hclamp two_pos.le) h)
  exact_mod_cast toNat_toU8 (n := n) (by omega) (by omega) hround

end Sys2Proof.Machine
end

section
/-!
The coefficient table of `XF_REF` (`41_tqu.md` R114, R115) as integers, the multiples `coefNum` of `2^-27`: the facts
about rows and columns that the laws of the transform rest on are about 64 small integers.
-/

namespace Sys2Proof.Machine

/-- `C[k][n]` in units of `2^-27`. -/
def coefNum (k n : Fin 8) : Int := coef k n / 2 ^ 122

/-- Every coefficient is a multiple of `2^-27`. -/
theorem coef_eq : ∀ k n : Fin 8, coef k n = coefNum k n * 2 ^ 122 := by decide +kernel

/-- A multiple of `2^-27` over the reals. -/
theorem units_div (g : Int) : ((g * 2 ^ 122 : Int) : ℝ) / 2 ^ 149 = g / 2 ^ 27 := by
  have hpow : (2 : ℝ) ^ 149 = 2 ^ 27 * 2 ^ 122 := by rw [← pow_add]
  rw [Int.cast_mul, Int.cast_pow, Int.cast_ofNat, hpow, mul_div_mul_right _ _ (by positivity)]

/-- `C[0][n]` is `G(4)`. -/
theorem coef_zero : ∀ n : Fin 8, coef 0 n = dec32 0x3EB504F3#32 := by decide +kernel

theorem dec32_G4 : dec32 0x3EB504F3#32 = 11863283 * 2 ^ 124 := by decide +kernel

/-- Rows 1 to 7 sum to 0: every magnitude appears as often with `+` as with `-`. -/
theorem sum_coef_row : ∀ k : Fin 8, ∑ n : Fin 8, coef k n = if k = 0 then 8 * dec32 0x3EB504F3#32 else 0 := by
  decide +kernel

/-- A row of the table sums to at most 2.83 in magnitude. -/
theorem sum_abs_coefNum_row : ∀ k : Fin 8, 100 * ∑ n : Fin 8, |coefNum k n| ≤ 283 * 2 ^ 27 := by decide +kernel

/-- A column of the table sums to at most 2.83 in magnitude. -/
theorem sum_abs_coefNum_col : ∀ n : Fin 8, 100 * ∑ k : Fin 8, |coefNum k n| ≤ 283 * 2 ^ 27 := by decide +kernel

/-- The columns of the table are orthonormal but for the rounding of its entries. -/
theorem gram_coefNum : ∀ n m : Fin 8,
    |∑ k : Fin 8, coefNum k n * coefNum k m - if n = m then 2 ^ 54 else 0| ≤ 2 ^ 31 := by decide +kernel

end Sys2Proof.Machine
end

section
/-!
Blocks by row and column, and the two exact facts about `XF_REF` (`41_tqu.md` R130). A constant block keeps the first
column only after the row pass, since rows 1 to 7 of the table sum to 0; a DC-only block does after the column pass.
-/

namespace Sys2Proof.Machine

/-! ### Blocks by row and column -/

theorem at8_ofFn (f : Fin 64 → Int) (r c : Fin 8) :
    at8 (Vector.ofFn f) r c = f ⟨8 * r.val + c.val, by omega⟩ := by
  simp only [at8, Vector.getElem_ofFn]

theorem at8_constant (a : Int) (r c : Fin 8) : at8 (Vector.replicate 64 a) r c = a := by
  simp only [at8, Vector.getElem_replicate]

theorem getElem_eq_at8 (X : Block) (e : Fin 64) : X[e] = at8 X (rowOf e) (colOf e) := by
  simp only [at8, rowOf, colOf, Fin.getElem_fin]
  congr 1
  omega

theorem abs_at8_le {X : Block} {B : Int} (h : ∀ e : Fin 64, |X[e]| ≤ B) (r c : Fin 8) : |at8 X r c| ≤ B :=
  h ⟨8 * r.val + c.val, by omega⟩

/-- A block from results given by row and column. -/
theorem exists_block {P : Fin 8 → Fin 8 → Int → Prop} (h : ∀ r c, ∃ v, P r c v) :
    ∃ T : Block, ∀ r c, P r c (at8 T r c) := by
  choose g hg using h
  refine ⟨Vector.ofFn fun e => g (rowOf e) (colOf e), fun r c => ?_⟩
  have hrow : rowOf ⟨8 * r.val + c.val, by omega⟩ = r := Fin.ext (by simp only [rowOf]; omega)
  have hcol : colOf ⟨8 * r.val + c.val, by omega⟩ = c := Fin.ext (by simp only [colOf]; omega)
  rw [at8_ofFn, hrow, hcol]
  exact hg r c

/-! ### Constant blocks and DC-only blocks -/

/-- A block with its first element only. -/
def Block.dcOnly (y : Int) : Block := Vector.ofFn fun e : Fin 64 => if e = 0 then y else 0

/-- A block with its first column only, constant. -/
def Block.firstColumn (t : Int) : Block := Vector.ofFn fun e : Fin 64 => if colOf e = 0 then t else 0

theorem getElem_dcOnly (y : Int) (e : Fin 64) : (Block.dcOnly y)[e] = if e = 0 then y else 0 := by
  simp only [Block.dcOnly, Fin.getElem_fin, Vector.getElem_ofFn, Fin.eta]

theorem at8_dcOnly (y : Int) (r c : Fin 8) : at8 (Block.dcOnly y) r c = if r = 0 ∧ c = 0 then y else 0 := by
  have hzero : (⟨8 * r.val + c.val, by omega⟩ : Fin 64) = 0 ↔ r = 0 ∧ c = 0 := by
    simp only [Fin.ext_iff, Fin.val_zero]
    omega
  simp only [Block.dcOnly, at8_ofFn, hzero]

theorem at8_firstColumn (t : Int) (r c : Fin 8) : at8 (Block.firstColumn t) r c = if c = 0 then t else 0 := by
  have hcol : colOf ⟨8 * r.val + c.val, by omega⟩ = c := Fin.ext (by simp only [colOf]; omega)
  simp only [Block.firstColumn, at8_ofFn, hcol]

theorem isForward_constant {a t y : Int} (ht : fl32 (8 * dec32 0x3EB504F3#32 * a) (2 ^ 149) = some t)
    (hy : fl32 (8 * dec32 0x3EB504F3#32 * t) (2 ^ 149) = some y) :
    IsForward (Vector.replicate 64 a) (Block.dcOnly y) := by
  refine ⟨Block.firstColumn t, fun r v => ?_, fun u v => ?_⟩
  · simp only [at8_constant, at8_firstColumn, ← Finset.sum_mul, sum_coef_row]
    split
    · exact ht
    · rw [zero_mul, fl32_zero]
  · simp only [at8_firstColumn, at8_dcOnly, ← Finset.sum_mul, sum_coef_row]
    by_cases hu : u = 0
    · by_cases hv : v = 0
      · simpa only [hu, hv, if_true, and_self] using hy
      · simp only [hv, if_false, and_false, mul_zero, fl32_zero]
    · simp only [hu, if_false, false_and, zero_mul, fl32_zero]

theorem isInverse_dcOnly {d t x : Int} (ht : fl32 (dec32 0x3EB504F3#32 * d) (2 ^ 149) = some t)
    (hx : fl32 (dec32 0x3EB504F3#32 * t) (2 ^ 149) = some x) :
    IsInverse (Block.dcOnly d) (Vector.replicate 64 x) := by
  have hfirst : ∀ (m : Fin 8) (z : Int), ∑ n : Fin 8, coef n m * (if n = 0 then z else 0) =
      dec32 0x3EB504F3#32 * z := fun m z => by
    simp only [mul_ite, mul_zero, Finset.sum_ite_eq', Finset.mem_univ, if_true, coef_zero]
  refine ⟨Block.firstColumn t, fun r v => ?_, fun r c => ?_⟩
  · simp only [at8_dcOnly, at8_firstColumn]
    by_cases hv : v = 0
    · simpa only [hv, and_true, if_true, hfirst] using ht
    · simp only [hv, and_false, if_false, mul_zero, Finset.sum_const_zero, fl32_zero]
  · simpa only [at8_firstColumn, at8_constant, hfirst] using hx

/-- Settles O39: the two facts, and the first for the constant 128. -/
theorem constantAndDcBlocks : Obligations.ConstantAndDcBlocks :=
  ⟨fun _ _ _ => isForward_constant, fun _ _ _ => isInverse_dcOnly,
    isForward_constant (t := dec32 0x43B504F3#32) (by decide +kernel) (by decide +kernel)⟩

end Sys2Proof.Machine
end

section
/-!
The dot products of the transform are bounded (`41_tqu.md` R117, X3): a row or column of the table sums to at most
2.83 in magnitude.
-/

namespace Sys2Proof.Machine

/-- A dot product is at most the total of the coefficients' magnitudes times a bound of the operand. -/
theorem abs_sum_mul_le {R : Type} [CommRing R] [LinearOrder R] [IsStrictOrderedRing R] {a x : Fin 8 → R} {g B : R}
    (ha : ∑ n : Fin 8, |a n| ≤ g) (hx : ∀ n, |x n| ≤ B) : |∑ n : Fin 8, a n * x n| ≤ g * B := by
  have hB : 0 ≤ B := (abs_nonneg _).trans (hx 0)
  calc |∑ n : Fin 8, a n * x n| ≤ ∑ n : Fin 8, |a n * x n| := Finset.abs_sum_le_sum_abs _ _
    _ ≤ ∑ n : Fin 8, |a n| * B := Finset.sum_le_sum fun n _ => by
      rw [abs_mul]
      exact mul_le_mul_of_nonneg_left (hx n) (abs_nonneg _)
    _ = (∑ n : Fin 8, |a n|) * B := (Finset.sum_mul ..).symm
    _ ≤ g * B := mul_le_mul_of_nonneg_right ha hB

/-- Coefficients, in units of `2^-149`, that sum to at most 2.83 in magnitude. -/
def Gain (a : Fin 8 → Int) : Prop := 100 * ∑ n : Fin 8, |a n| ≤ 283 * 2 ^ 149

theorem gain_of_coefNum {a b : Fin 8 → Int} (hab : ∀ n, a n = b n * 2 ^ 122)
    (hb : 100 * ∑ n : Fin 8, |b n| ≤ 283 * 2 ^ 27) : Gain a := by
  have hsum : ∑ n : Fin 8, |a n| = (∑ n : Fin 8, |b n|) * 2 ^ 122 := by
    rw [Finset.sum_mul]
    exact Finset.sum_congr rfl fun n _ => by rw [hab, abs_mul, abs_of_pos (by positivity : (0 : Int) < 2 ^ 122)]
  unfold Gain
  rw [hsum]
  omega

theorem gain_row (k : Fin 8) : Gain (fun n => coef k n) := gain_of_coefNum (coef_eq k) (sum_abs_coefNum_row k)

theorem gain_col (n : Fin 8) : Gain (fun k => coef k n) :=
  gain_of_coefNum (fun k => coef_eq k n) (sum_abs_coefNum_col n)

theorem Gain.abs_dot_le {a x : Fin 8 → Int} {b : Nat} (ha : Gain a) (hx : ∀ n, |x n| ≤ b) :
    |∑ n : Fin 8, a n * x n| ≤ (3 * b : Nat) * (2 ^ 149 : Nat) := by
  have hgain : ∑ n : Fin 8, |a n| ≤ 3 * 2 ^ 149 := by unfold Gain at ha; omega
  refine (abs_sum_mul_le hgain hx).trans_eq ?_
  push_cast
  ring

/-- A dot product has a result when the operand is below 2^124, at most six times the operand. -/
theorem Gain.exists_dot {a x : Fin 8 → Int} {b : Nat} (ha : Gain a) (hx : ∀ n, |x n| ≤ b)
    (hb : 3 * b < 2 ^ 127 * 2 ^ 149) :
    ∃ v, fl32 (∑ n : Fin 8, a n * x n) (2 ^ 149) = some v :=
  exists_fl32 (by positivity) (ha.abs_dot_le hx) hb

theorem Gain.dot_le {a x : Fin 8 → Int} {b : Nat} {v : Int} (ha : Gain a) (hx : ∀ n, |x n| ≤ b)
    (h : fl32 (∑ n : Fin 8, a n * x n) (2 ^ 149) = some v) : |v| ≤ (6 * b : Nat) := by
  have hle := abs_le_of_fl32 (by positivity) h (ha.abs_dot_le hx)
  omega

theorem exists_isForward {X : Block} {b : Nat} (hX : ∀ e : Fin 64, |X[e]| ≤ b) (hb : 18 * b < 2 ^ 127 * 2 ^ 149) :
    ∃ Y, IsForward X Y := by
  have hb3 : 3 * b < 2 ^ 127 * 2 ^ 149 := lt_of_le_of_lt (by omega) hb
  obtain ⟨T, hT⟩ := exists_block fun r v => (gain_row v).exists_dot (x := fun n => at8 X r n) (abs_at8_le hX r) hb3
  have hT6 : ∀ r v, |at8 T r v| ≤ (6 * b : Nat) := fun r v => (gain_row v).dot_le (abs_at8_le hX r) (hT r v)
  obtain ⟨Y, hY⟩ := exists_block fun u v => (gain_row u).exists_dot (fun n => hT6 n v) (by omega)
  exact ⟨Y, T, hT, hY⟩

/-- The magnitudes grow sixfold with each pass at most. -/
theorem abs_le_of_isForward {X Y : Block} {b : Nat} (hX : ∀ e : Fin 64, |X[e]| ≤ b) (h : IsForward X Y)
    (e : Fin 64) : |Y[e]| ≤ (36 * b : Nat) := by
  obtain ⟨T, hT, hY⟩ := h
  have hT6 : ∀ r v, |at8 T r v| ≤ (6 * b : Nat) := fun r v => (gain_row v).dot_le (abs_at8_le hX r) (hT r v)
  have hY36 := (gain_row (rowOf e)).dot_le (fun n => hT6 n (colOf e)) (hY (rowOf e) (colOf e))
  rw [getElem_eq_at8]
  omega

theorem exists_isInverse {Y : Block} {b : Nat} (hY : ∀ e : Fin 64, |Y[e]| ≤ b) (hb : 18 * b < 2 ^ 127 * 2 ^ 149) :
    ∃ X, IsInverse Y X := by
  have hb3 : 3 * b < 2 ^ 127 * 2 ^ 149 := lt_of_le_of_lt (by omega) hb
  obtain ⟨T, hT⟩ := exists_block fun r v =>
    (gain_col r).exists_dot (x := fun n => at8 Y n v) (fun n => abs_at8_le hY n v) hb3
  have hT6 : ∀ r v, |at8 T r v| ≤ (6 * b : Nat) := fun r v =>
    (gain_col r).dot_le (fun n => abs_at8_le hY n v) (hT r v)
  obtain ⟨X, hX⟩ := exists_block fun r c => (gain_col c).exists_dot (hT6 r) (by omega)
  exact ⟨X, T, hT, hX⟩

/-- Settles O41: the second pass forms sums of at most eighteen times the operand. -/
theorem noSpuriousOverflow : Obligations.NoSpuriousOverflow := by
  intro X hX
  have hb : 18 * 2 ^ 269 < 2 ^ 127 * 2 ^ 149 := by
    rw [show 269 = 120 + 149 from rfl, pow_add 2 120]
    norm_num
  have habs : ∀ e : Fin 64, |X[e]| ≤ (2 ^ 269 : Nat) := fun e => by
    rw [← Int.natCast_natAbs]
    exact Int.ofNat_le.2 (hX e)
  exact ⟨exists_isForward habs hb, exists_isInverse habs hb⟩

end Sys2Proof.Machine
end

section
/-!
The error of the transform over the reals (`41_tqu.md` R117, X2). A dot product whose coefficients are within `2^-26`
of real ones `κ` is within `4.83 * 2^-24` of the operand's bound of the real dot product: `2 * 2^-24` from the
coefficients and `2.83 * 2^-24` from its one rounding.
-/

namespace Sys2Proof.Machine

/-- The coefficients `a`, in units of `2^-149`, have a bounded sum and are near the real ones `κ`. -/
structure Approximates (a : Fin 8 → Int) (κ : Fin 8 → ℝ) : Prop where
  gain : Gain a
  near : ∀ n, |(a n : ℝ) / 2 ^ 149 - κ n| ≤ 1 / 2 ^ 26

theorem Gain.approximates {a : Fin 8 → Int} (ha : Gain a) : Approximates a fun n => (a n : ℝ) / 2 ^ 149 :=
  ⟨ha, fun n => by rw [sub_self, abs_zero]; positivity⟩

theorem Gain.sum_le {a : Fin 8 → Int} (ha : Gain a) : ∑ n : Fin 8, |(a n : ℝ) / 2 ^ 149| ≤ 283 / 100 := by
  have hcast : (100 * ∑ n : Fin 8, |(a n : ℝ)|) ≤ 283 * 2 ^ 149 := by exact_mod_cast ha
  have hsum : ∑ n : Fin 8, |(a n : ℝ) / 2 ^ 149| = (∑ n : Fin 8, |(a n : ℝ)|) / 2 ^ 149 := by
    rw [Finset.sum_div]
    exact Finset.sum_congr rfl fun n _ => by rw [abs_div, abs_of_pos (by positivity : (0 : ℝ) < 2 ^ 149)]
  rw [hsum, div_le_iff₀ (by positivity)]
  linarith

/-- Eight terms within one bound. -/
theorem sum_abs_le_of_le {z : Fin 8 → ℝ} {e : ℝ} (h : ∀ n, |z n| ≤ e) : ∑ n : Fin 8, |z n| ≤ 8 * e := by
  simpa using Finset.sum_le_card_nsmul Finset.univ (fun n => |z n|) e fun n _ => h n

/-- The rounding of a result over the reals. -/
theorem fl32_error_real {num v : Int} (h : fl32 num (2 ^ 149) = some v) :
    |(v : ℝ) - num / 2 ^ 149| ≤ |(num : ℝ) / 2 ^ 149| / 2 ^ 24 + 1 / 2 := by
  have herr : (2 : ℝ) ^ 24 * |(v : ℝ) * 2 ^ 149 - num| ≤ |(num : ℝ)| + 2 ^ 23 * 2 ^ 149 := by
    exact_mod_cast fl32_error (by positivity) h
  have hpos : (0 : ℝ) < 2 ^ 149 := by positivity
  have hdiv : (v : ℝ) - num / 2 ^ 149 = (v * 2 ^ 149 - num) / 2 ^ 149 := by
    rw [sub_div, mul_div_cancel_right₀ _ hpos.ne']
  rw [hdiv, abs_div, abs_div, abs_of_pos hpos]
  generalize |(v : ℝ) * 2 ^ 149 - num| = x at herr
  generalize |(num : ℝ)| = y at herr
  rw [div_le_iff₀ hpos, add_mul, div_right_comm, div_mul_cancel₀ _ hpos.ne']
  linarith

section
variable {a : Fin 8 → Int} {κ : Fin 8 → ℝ}

theorem Approximates.dot_error (h : Approximates a κ) {x : Fin 8 → Int} {v : Int} {B : ℝ}
    (hx : ∀ n, |(x n : ℝ)| ≤ B) (hv : fl32 (∑ n : Fin 8, a n * x n) (2 ^ 149) = some v) :
    |(v : ℝ) - ∑ n : Fin 8, κ n * x n| ≤ 483 / 100 / 2 ^ 24 * B + 1 / 2 := by
  have hnum : ((∑ n : Fin 8, a n * x n : Int) : ℝ) / 2 ^ 149 = ∑ n : Fin 8, (a n : ℝ) / 2 ^ 149 * x n := by
    push_cast
    rw [Finset.sum_div]
    exact Finset.sum_congr rfl fun n _ => mul_div_right_comm _ _ _
  have hround := fl32_error_real hv
  have hgain := abs_sum_mul_le h.gain.sum_le hx
  have hcoef := abs_sum_mul_le (sum_abs_le_of_le h.near) hx
  simp only [sub_mul, Finset.sum_sub_distrib] at hcoef
  rw [hnum] at hround
  have htri := abs_sub_le (v : ℝ) (∑ n : Fin 8, (a n : ℝ) / 2 ^ 149 * x n) (∑ n : Fin 8, κ n * x n)
  linarith

/-- The real coefficients sum to at most 2.84 in magnitude. -/
theorem Approximates.sum_le (h : Approximates a κ) : ∑ n : Fin 8, |κ n| ≤ 284 / 100 := by
  have hle : ∑ n : Fin 8, |κ n| ≤ ∑ n : Fin 8, (|(a n : ℝ) / 2 ^ 149| + |(a n : ℝ) / 2 ^ 149 - κ n|) :=
    Finset.sum_le_sum fun n _ => by
      have := abs_sub_abs_le_abs_sub (κ n) ((a n : ℝ) / 2 ^ 149)
      rw [abs_sub_comm] at this
      linarith
  rw [Finset.sum_add_distrib] at hle
  linarith [h.gain.sum_le, sum_abs_le_of_le h.near]

/-- The second of two passes adds its own error to the error of the first, magnified by the sum of its
coefficients. -/
theorem Approximates.two_pass_error {b : Fin 8 → Int} {μ : Fin 8 → ℝ} (ha : Approximates a κ)
    (hb : Approximates b μ) {x : Fin 8 → Fin 8 → Int} {t : Fin 8 → Int} {y : Int} {A : ℝ}
    (hx : ∀ m n, |(x m n : ℝ)| ≤ A)
    (ht : ∀ m, fl32 (∑ n : Fin 8, b n * x m n) (2 ^ 149) = some (t m))
    (hy : fl32 (∑ m : Fin 8, a m * t m) (2 ^ 149) = some y) :
    |(y : ℝ) - ∑ m : Fin 8, κ m * ∑ n : Fin 8, μ n * x m n| ≤ A / 2 ^ 19 + 2 ^ 9 := by
  have hA : 0 ≤ A := (abs_nonneg _).trans (hx 0 0)
  have hfirst := fun m => hb.dot_error (hx m) (ht m)
  have hreal := fun m => abs_sum_mul_le hb.sum_le (hx m)
  have hsecond := ha.dot_error (B := 285 / 100 * A + 1) (fun m => by
    have := abs_sub_abs_le_abs_sub (t m : ℝ) (∑ n : Fin 8, μ n * x m n)
    linarith [hfirst m, hreal m]) hy
  have hmagnified := abs_sum_mul_le ha.sum_le hfirst
  simp only [mul_sub, Finset.sum_sub_distrib] at hmagnified
  have htri := abs_sub_le (y : ℝ) (∑ m : Fin 8, κ m * t m) (∑ m : Fin 8, κ m * ∑ n : Fin 8, μ n * x m n)
  linarith

end

end Sys2Proof.Machine
end

section
/-!
FDCT followed by IDCT (`41_tqu.md` R126). Each pass of the inverse undoes the pass of the forward transform over the
same lines, columns first and then rows, since the columns of the table are nearly orthonormal; so the round trip is
followed line by line, in one dimension, twice.
-/

namespace Sys2Proof.Machine

/-- `C[k][n]` as a real number. -/
noncomputable def coefReal (k n : Fin 8) : ℝ := (coef k n : ℝ) / 2 ^ 149

theorem coefReal_eq (k n : Fin 8) : coefReal k n = (coefNum k n : ℝ) / 2 ^ 27 := by
  rw [coefReal, coef_eq, units_div]

theorem gram_coefReal (n m : Fin 8) :
    |∑ k : Fin 8, coefReal k n * coefReal k m - if n = m then 1 else 0| ≤ 1 / 2 ^ 23 := by
  have hnum : |(∑ k : Fin 8, (coefNum k n : ℝ) * coefNum k m) - if n = m then 2 ^ 54 else 0| ≤ 2 ^ 31 := by
    exact_mod_cast gram_coefNum n m
  have hsum : ∑ k : Fin 8, coefReal k n * coefReal k m = (∑ k : Fin 8, (coefNum k n : ℝ) * coefNum k m) / 2 ^ 54 := by
    rw [Finset.sum_div]
    exact Finset.sum_congr rfl fun k _ => by rw [coefReal_eq, coefReal_eq, div_mul_div_comm, ← pow_add]
  have hone : (if n = m then (1 : ℝ) else 0) = (if n = m then 2 ^ 54 else 0) / 2 ^ 54 := by
    split <;> norm_num
  rw [hsum, hone, ← sub_div, abs_div, abs_of_pos (by positivity : (0 : ℝ) < 2 ^ 54), div_le_iff₀ (by positivity)]
  exact hnum.trans_eq (by norm_num)

/-- The inverse dot products of the forward ones, the latter known within `e`, give the line back. -/
theorem line_round_trip {x y : Fin 8 → ℝ} {B e : ℝ} (hx : ∀ n, |x n| ≤ B)
    (hy : ∀ k, |y k - ∑ n : Fin 8, coefReal k n * x n| ≤ e) (m : Fin 8) :
    |∑ k : Fin 8, coefReal k m * y k - x m| ≤ 283 / 100 * e + B / 2 ^ 20 := by
  have herror := abs_sum_mul_le (gain_col m).sum_le hy
  have hgram := abs_sum_mul_le (sum_abs_le_of_le (gram_coefReal m)) hx
  have hback : ∑ n : Fin 8, (∑ k : Fin 8, coefReal k m * coefReal k n - if m = n then 1 else 0) * x n =
      ∑ k : Fin 8, coefReal k m * ∑ n : Fin 8, coefReal k n * x n - x m := by
    simp only [sub_mul, Finset.sum_sub_distrib, ite_mul, one_mul, zero_mul, Finset.sum_ite_eq, Finset.mem_univ,
      if_true, Finset.sum_mul, Finset.mul_sum, mul_assoc]
    rw [Finset.sum_comm]
  rw [hback] at hgram
  change |∑ k : Fin 8, coefReal k m * _| ≤ _ at herror
  simp only [mul_sub, Finset.sum_sub_distrib] at herror
  have htri := abs_sub_le (∑ k : Fin 8, coefReal k m * y k)
    (∑ k : Fin 8, coefReal k m * ∑ n : Fin 8, coefReal k n * x n) (x m)
  linarith

/-- A dot product with the table's own coefficients, its operand bounded by an integer. -/
theorem Gain.dot_error {a x : Fin 8 → Int} {v : Int} {b : Nat} (ha : Gain a) (hx : ∀ n, |x n| ≤ b)
    (hv : fl32 (∑ n : Fin 8, a n * x n) (2 ^ 149) = some v) :
    |(v : ℝ) - ∑ n : Fin 8, (a n : ℝ) / 2 ^ 149 * x n| ≤ 483 / 100 / 2 ^ 24 * b + 1 / 2 :=
  ha.approximates.dot_error (fun n => by exact_mod_cast hx n) hv

/-- The inverse transform of the forward transform is near the block, within `2^-12` of its bound. The magnitudes
grow sixfold with each of the four passes at most. -/
theorem round_trip_error {X Y Z : Block} {b : Nat} (hX : ∀ e : Fin 64, |X[e]| ≤ b) (hXY : IsForward X Y)
    (hYZ : IsInverse Y Z) (r c : Fin 8) : |(at8 Z r c : ℝ) - at8 X r c| ≤ b / 2 ^ 12 + 2 ^ 9 := by
  obtain ⟨T, hT, hY⟩ := hXY
  obtain ⟨S, hS, hZ⟩ := hYZ
  have hXb := abs_at8_le hX
  have hTb : ∀ r v, |at8 T r v| ≤ (6 * b : Nat) := fun r v => (gain_row v).dot_le (hXb r) (hT r v)
  have hYb : ∀ u v, |at8 Y u v| ≤ (6 * (6 * b) : Nat) := fun u v => (gain_row u).dot_le (hTb · v) (hY u v)
  have hSb : ∀ r v, |at8 S r v| ≤ (6 * (6 * (6 * b)) : Nat) := fun r v => (gain_col r).dot_le (hYb · v) (hS r v)
  have hrow : ∀ v, |(at8 S r v : ℝ) - ∑ n : Fin 8, coefReal v n * at8 X r n| ≤ b / 2 ^ 15 + 3 := fun v => by
    have hforward := (gain_row v).dot_error (hXb r) (hT r v)
    have hcol := line_round_trip (x := fun n => (at8 T n v : ℝ)) (y := fun u => (at8 Y u v : ℝ)) (B := 6 * b)
      (fun n => by exact_mod_cast hTb n v) (fun u => (gain_row u).dot_error (hTb · v) (hY u v)) r
    have hinverse := (gain_col r).dot_error (hYb · v) (hS r v)
    have htri := abs_sub_le (at8 S r v : ℝ) (∑ k : Fin 8, coefReal k r * at8 Y k v) (at8 T r v)
    have htri' := abs_sub_le (at8 S r v : ℝ) (at8 T r v) (∑ n : Fin 8, coefReal v n * at8 X r n)
    change |_ - ∑ n : Fin 8, coefReal v n * _| ≤ _ at hforward
    change |_ - ∑ k : Fin 8, coefReal k r * _| ≤ _ at hinverse
    push_cast at hcol hinverse
    linarith
  have hline := line_round_trip (x := fun n => (at8 X r n : ℝ)) (y := fun v => (at8 S r v : ℝ)) (B := b)
    (fun n => by exact_mod_cast hXb r n) hrow c
  have hlast := (gain_col c).dot_error (hSb r) (hZ r c)
  have htri := abs_sub_le (at8 Z r c : ℝ) (∑ k : Fin 8, coefReal k c * at8 S r k) (at8 X r c)
  change |_ - ∑ k : Fin 8, coefReal k c * _| ≤ _ at hlast
  push_cast at hlast
  linarith

/-- The block of 64 samples, as values. -/
def sampleBlock (n : Vector Byte 64) : Block := Vector.ofFn fun e : Fin 64 => (n[e].toNat : Int) * 2 ^ 149

theorem getElem_sampleBlock (n : Vector Byte 64) (e : Fin 64) :
    (sampleBlock n)[e] = (n[e].toNat : Int) * 2 ^ 149 := by
  simp only [sampleBlock, Fin.getElem_fin, Vector.getElem_ofFn]

theorem abs_sampleBlock_le (n : Vector Byte 64) (e : Fin 64) : |(sampleBlock n)[e]| ≤ (255 * 2 ^ 149 : Nat) := by
  rw [getElem_sampleBlock]
  exact abs_sample_le (Nat.le_of_lt_succ n[e].isLt)

/-- The inverse of the forward transform of samples deviates from them by less than half a step. -/
theorem toU8_of_round_trip {n : Vector Byte 64} {Y Z : Block} (hY : IsForward (sampleBlock n) Y)
    (hZ : IsInverse Y Z) (e : Fin 64) : toU8 Z[e] = n[e] := by
  have hbyte := n[e].isLt
  refine BitVec.eq_of_toNat_eq (toU8_of_near (by omega) ?_)
  have herror := round_trip_error (abs_sampleBlock_le n) hY hZ (rowOf e) (colOf e)
  rw [← getElem_eq_at8, ← getElem_eq_at8, getElem_sampleBlock] at herror
  have hreal : (2 : ℝ) * |(Z[e] : ℝ) - ((n[e].toNat * 2 ^ 149 : Int) : ℝ)| < 2 ^ 149 := by
    refine lt_of_le_of_lt (mul_le_mul_of_nonneg_left herror two_pos.le) ?_
    norm_num
  exact_mod_cast hreal

/-- Settles O43: neither transform of samples overflows, and the round trip gives them back. -/
theorem transformAloneKeepsSamples : Obligations.TransformAloneKeepsSamples := by
  intro n
  have hlimit : 18 * (36 * (255 * 2 ^ 149)) < 2 ^ 127 * 2 ^ 149 := by norm_num
  obtain ⟨Y, hY⟩ := exists_isForward (abs_sampleBlock_le n) (lt_of_le_of_lt (by omega) hlimit)
  obtain ⟨Z, hZ⟩ := exists_isInverse (abs_le_of_isForward (abs_sampleBlock_le n) hY) hlimit
  exact ⟨Y, Z, hY, hZ, toU8_of_round_trip hY hZ⟩

end Sys2Proof.Machine
end

section
/-!
Constant blocks through the base path (`41_tqu.md` R127). Two roundings of the DC multiply by `8 * G(4)` or by `G(4)`,
whose square is `1/8` within `2^-24`; so the DC coefficient of the constant `a` is within `2^-22` of `8a`, which
quantizes to the exact divisor and back to `8a`, and the inverse is within `2^-22` of `a`.
-/

namespace Sys2Proof.Machine

theorem one32_cast : (one32 : Int) = 2 ^ 149 := rfl

theorem fl32_error_of_nonneg {num v : Int} {den : Nat} (hd : 0 < den) (hnum : 0 ≤ num)
    (h : fl32 num den = some v) : 0 ≤ v ∧ 2 ^ 24 * |v * den - num| ≤ num + 2 ^ 23 * den := by
  refine ⟨?_, by simpa only [abs_of_nonneg hnum] using fl32_error hd h⟩
  obtain ⟨-, rfl⟩ := fl32_eq_some_iff.1 h
  rw [if_neg (not_lt.2 hnum)]
  exact mul_nonneg (rneDiv_nonneg (Int.natCast_nonneg _) _) (by positivity)

/-- One rounding of `k * G(4) * x`, in units of `2^-25`. -/
theorem dc_rounding {k x t : Int} (hk : k = 1 ∨ k = 8) (hx : 0 ≤ x)
    (h : fl32 (k * dec32 0x3EB504F3#32 * x) (2 ^ 149) = some t) :
    0 ≤ t ∧ 2 ^ 24 * |t * 2 ^ 25 - k * 11863283 * x| ≤ k * 11863283 * x + 2 ^ 48 := by
  have hnum : k * dec32 0x3EB504F3#32 * x = k * 11863283 * x * 2 ^ 124 := by rw [dec32_G4]; ring
  have hk0 : 0 ≤ k := by omega
  rw [hnum] at h
  obtain ⟨ht, herr⟩ := fl32_error_of_nonneg (by positivity) (by positivity) h
  refine ⟨ht, ?_⟩
  have hfactor : t * ((2 ^ 149 : Nat) : Int) - k * 11863283 * x * 2 ^ 124 =
      (t * 2 ^ 25 - k * 11863283 * x) * 2 ^ 124 := by push_cast; ring
  rw [hfactor, abs_mul, abs_of_pos (by positivity : (0 : Int) < 2 ^ 124)] at herr
  generalize |t * 2 ^ 25 - k * 11863283 * x| = d at herr ⊢
  generalize k * 11863283 * x = p at herr ⊢
  push_cast at herr
  omega

/-- Two roundings of the DC give `w = k^2 * x / 8` within `2^-22`. -/
theorem two_dc_roundings {k x t y w : Int} (hk : k = 1 ∨ k = 8) (hx : 0 ≤ x) (hw : k * k * x = 8 * w)
    (ht : fl32 (k * dec32 0x3EB504F3#32 * x) (2 ^ 149) = some t)
    (hy : fl32 (k * dec32 0x3EB504F3#32 * t) (2 ^ 149) = some y) :
    0 ≤ y ∧ 2 ^ 22 * |y - w| ≤ w + 2 ^ 24 := by
  obtain ⟨ht0, hterr⟩ := dc_rounding hk hx ht
  obtain ⟨hy0, hyerr⟩ := dc_rounding hk ht0 hy
  refine ⟨hy0, ?_⟩
  have habs : ∀ {z b c : Int}, 0 < c → (c * |z| ≤ b ↔ -b ≤ c * z ∧ c * z ≤ b) := fun hc => by
    rw [← abs_of_pos hc, ← abs_mul, abs_le, abs_of_pos hc]
  rw [habs (by positivity)] at hterr hyerr ⊢
  rcases hk with rfl | rfl <;> omega

theorem exists_dc_roundings {k x : Int} {b : Nat} (hk : k = 1 ∨ k = 8) (hx : |x| ≤ b)
    (hb : 18 * b < 2 ^ 127 * 2 ^ 149) :
    ∃ t y, fl32 (k * dec32 0x3EB504F3#32 * x) (2 ^ 149) = some t ∧
      fl32 (k * dec32 0x3EB504F3#32 * t) (2 ^ 149) = some y := by
  have hgain : ∀ {z : Int} {c : Nat}, |z| ≤ c → |k * dec32 0x3EB504F3#32 * z| ≤ (3 * c : Nat) * (2 ^ 149 : Nat) := by
    intro z c hz
    rw [dec32_G4, abs_mul, abs_of_nonneg (by omega)]
    push_cast
    rcases hk with rfl | rfl <;> linarith
  obtain ⟨t, ht⟩ := exists_fl32 (by positivity) (hgain hx) (lt_of_le_of_lt (by omega) hb)
  have ht6 := abs_le_of_fl32 (by positivity) ht (hgain hx)
  obtain ⟨y, hy⟩ := exists_fl32 (den := 2 ^ 149) (by positivity) (hgain (z := t) (c := 6 * b) (by omega)) (by omega)
  exact ⟨t, y, ht, hy⟩

/-- A DC coefficient within `2^-22` of `8a` quantizes to the divisor `q` of `8a`, when the entry `m` is at least
`1/256`. -/
theorem quantLane_dc {a : Nat} {m q y : Int} (ha : a ≤ 255) (hm : 2 ^ 149 ≤ 256 * m) (hq : q * m = 8 * a * 2 ^ 149)
    (hy0 : 0 ≤ y) (hy : 2 ^ 22 * |y - 8 * a * 2 ^ 149| ≤ (8 * a * 2 ^ 149 + 2 ^ 24 : Int)) :
    quantLane y m = some (q * 2 ^ 149) := by
  have hm0 : 0 < m := by omega
  have hyle : y ≤ 2041 * 2 ^ 149 := by
    have := le_abs_self (y - 8 * a * 2 ^ 149)
    omega
  have hcast : ((m.toNat : Nat) : Int) = m := Int.toNat_of_nonneg hm0.le
  have hnum : |y * 2 ^ 149| ≤ ((256 * y).toNat : Int) * (m.toNat : Int) := by
    rw [hcast, Int.toNat_of_nonneg (by omega), abs_of_nonneg (by positivity)]
    nlinarith
  obtain ⟨u, hu⟩ := exists_fl32 (by omega) hnum
    (by omega)
  obtain ⟨-, herr⟩ := fl32_error_of_nonneg (by omega) (by positivity) hu
  have hdist : |u - q * 2 ^ 149| * m = |u * m - 8 * a * 2 ^ 149 * 2 ^ 149| := by
    rw [← hq, ← abs_of_pos hm0, ← abs_mul, abs_of_pos hm0]
    ring_nf
  have hnear : 2 * |u - q * 2 ^ 149| < 2 ^ 149 := by
    refine lt_of_mul_lt_mul_right ?_ hm0.le
    have htri := abs_sub_le (u * m) (y * 2 ^ 149) (8 * a * 2 ^ 149 * 2 ^ 149)
    have hshift : |y * 2 ^ 149 - 8 * a * 2 ^ 149 * 2 ^ 149| = |y - 8 * a * 2 ^ 149| * 2 ^ 149 := by
      rw [← sub_mul, abs_mul, abs_of_pos (by positivity : (0 : Int) < 2 ^ 149)]
    have ha' : (a : Int) ≤ 255 := by exact_mod_cast ha
    rw [mul_assoc, hdist]
    rw [hcast] at herr
    linarith
  have hround : rneInt u = q := rneDiv_eq_of_near (by rwa [one32_cast])
  have hlane : fl32 (y * one32) m.toNat = some u := hu
  simp only [quantLane, hlane, hround]
  rfl

/-- The levels of a DC-only block: its other elements quantize to 0. -/
theorem isQuant_dcOnly {M : Block} {y l : Int} (h : quantLane y M[0] = some l) :
    IsQuant (Block.dcOnly y) M (Block.dcOnly l) := by
  refine quantBlock_iff_isQuant.1 (lanes_eq_some.2 fun e => ?_)
  rw [getElem_dcOnly, getElem_dcOnly]
  split
  · next he => rw [he]; exact h
  · simp only [quantLane, zero_mul, fl32_zero]
    rw [rneInt, ← zero_mul (one32 : Int), rneDiv_exact 0 one32_pos, ofInteger]

theorem isDequant_dcOnly {M : Block} {l d : Int} (h : fl32 (l * M[0]) (2 ^ 149) = some d) :
    IsDequant (Block.dcOnly l) M (Block.dcOnly d) := by
  intro e
  rw [getElem_dcOnly, getElem_dcOnly]
  split
  · next he => rw [he]; exact h
  · rw [zero_mul, fl32_zero]

/-- Settles O40: the four stages on the DC alone. -/
theorem constantBlocksSurvive : Obligations.ConstantBlocksSurvive := by
  intro a M q ha _ hm hq
  have hlimit : 18 * (2040 * 2 ^ 149) < 2 ^ 127 * 2 ^ 149 := by norm_num
  obtain ⟨t, y, ht, hy⟩ := exists_dc_roundings (.inr rfl) (abs_sample_le (n := a) (b := 2040) (by omega)) hlimit
  obtain ⟨hy0, hyerr⟩ := two_dc_roundings (w := 8 * a * 2 ^ 149) (.inr rfl) (sample_nonneg a) (by ring) ht hy
  obtain ⟨u, x, hu, hx⟩ := exists_dc_roundings (.inl rfl) (abs_sample_le (n := 8 * a) (b := 2040) (by omega)) hlimit
  obtain ⟨-, hxerr⟩ := two_dc_roundings (w := a * 2 ^ 149) (.inl rfl) (sample_nonneg (8 * a))
    (by push_cast; ring) hu hx
  have hlane : quantLane y M[0] = some (q * 2 ^ 149) := quantLane_dc ha hm hq hy0 hyerr
  have hexact : fl32 (q * 2 ^ 149 * M[0]) (2 ^ 149) = some (((8 * a : Nat) : Int) * 2 ^ 149) := by
    have hnum : q * 2 ^ 149 * M[0] = ofInteger (8 * a : Nat) * (2 ^ 149 : Nat) := by
      rw [mul_right_comm, hq]
      rfl
    rw [hnum]
    exact fl32_exact (by positivity) (inF32_ofInteger (by omega))
  rw [one_mul] at hu hx
  refine ⟨Vector.replicate 64 x, ⟨_, _, _, isForward_constant ht hy, isQuant_dcOnly hlane, isDequant_dcOnly hexact,
    isInverse_dcOnly hu hx⟩, fun e => ?_⟩
  simp only [Fin.getElem_fin, Vector.getElem_replicate]
  exact toU8_of_near ha (by omega)

end Sys2Proof.Machine
end

section
/-!
The coefficient table against the real kernel (`41_tqu.md` R113 to R115): the cosines at multiples of `pi/16`, their
values by halving angles from `pi/2`, and each `G(j)` within `2^-26` of `cos(j*pi/16)/2`.
-/

namespace Sys2Proof.Machine

/-! ### Cosines at multiples of `pi/16` -/

/-- `cos(z*pi/16)`. -/
noncomputable def cosAt (z : Int) : ℝ := Real.cos (z * Real.pi / 16)

theorem cosAt_eight : cosAt 8 = 0 := by
  rw [cosAt, ← Real.cos_pi_div_two]
  congr 1
  push_cast
  ring

theorem cosAt_neg (z : Int) : cosAt (-z) = cosAt z := by
  rw [cosAt, cosAt, ← Real.cos_neg]
  congr 1
  push_cast
  ring

theorem cosAt_add_sixteen (z : Int) : cosAt (z + 16) = -cosAt z := by
  rw [cosAt, cosAt, ← Real.cos_add_pi]
  congr 1
  push_cast
  ring

theorem cosAt_add_period (z q : Int) : cosAt (z + 32 * q) = cosAt z := by
  rw [cosAt, cosAt, ← Real.cos_add_int_mul_two_pi (z * Real.pi / 16) q]
  congr 1
  push_cast
  ring

theorem cosAt_two_mul (z : Int) : cosAt (2 * z) = 2 * cosAt z ^ 2 - 1 := by
  rw [cosAt, cosAt, ← Real.cos_two_mul]
  congr 1
  push_cast
  ring

theorem cosAt_sixteen_sub (z : Int) : cosAt (16 - z) = -cosAt z := by
  rw [sub_eq_neg_add, cosAt_add_sixteen, cosAt_neg]

theorem cosAt_nonneg {z : Int} (h0 : 0 ≤ z) (h8 : z ≤ 8) : 0 ≤ cosAt z := by
  have h0' : (0 : ℝ) ≤ z := by exact_mod_cast h0
  have h8' : (z : ℝ) ≤ 8 := by exact_mod_cast h8
  have hpi := Real.pi_pos
  exact Real.cos_nonneg_of_neg_pi_div_two_le_of_le (by nlinarith) (by nlinarith)

/-- Angles that differ by a period, or add up to one, have the same cosine. -/
theorem cosAt_eq_of_emod {m j : Int} (h : (m - j) % 32 = 0 ∨ (m + j) % 32 = 0) : cosAt m = cosAt j := by
  rcases h with h | h
  · obtain ⟨q, hq⟩ := Int.dvd_of_emod_eq_zero h
    rw [show m = j + 32 * q by omega, cosAt_add_period]
  · obtain ⟨q, hq⟩ := Int.dvd_of_emod_eq_zero h
    rw [show m = -j + 32 * q by omega, cosAt_add_period, cosAt_neg]

/-! ### Their values -/

/-- The cosine of an angle in the first quadrant from bounds of the cosine of its double. -/
theorem cosAt_mem_of_double {z w : Int} {l u a b : ℝ} (hw : w = 2 * z) (hz : 0 ≤ z ∧ z ≤ 8)
    (h : cosAt w ∈ Set.Icc l u) (hab : 0 ≤ a ∧ 0 ≤ b) (ha : 2 * a ^ 2 - 1 ≤ l) (hb : u ≤ 2 * b ^ 2 - 1) :
    cosAt z ∈ Set.Icc a b := by
  obtain ⟨hl, hu⟩ := h
  rw [hw, cosAt_two_mul] at hl hu
  have hpos := cosAt_nonneg hz.1 hz.2
  exact ⟨(pow_le_pow_iff_left₀ hab.1 hpos two_ne_zero).1 (by linarith),
    (pow_le_pow_iff_left₀ hpos hab.2 two_ne_zero).1 (by linarith)⟩

theorem cosAt_mem_of_supplement {z w : Int} {a b : ℝ} (hw : w = 16 - z) (h : cosAt z ∈ Set.Icc a b) :
    cosAt w ∈ Set.Icc (-b) (-a) := by
  rw [hw, cosAt_sixteen_sub]
  exact ⟨neg_le_neg h.2, neg_le_neg h.1⟩

theorem cosAt_four_mem : cosAt 4 ∈ Set.Icc (0.70710678118 : ℝ) 0.70710678119 :=
  cosAt_mem_of_double (w := 8) (l := 0) (u := 0) (by norm_num) (by norm_num) (by simp [cosAt_eight]) (by norm_num)
    (by norm_num) (by norm_num)

theorem cosAt_two_mem : cosAt 2 ∈ Set.Icc (0.9238795325 : ℝ) 0.9238795326 :=
  cosAt_mem_of_double (w := 4) (by norm_num) (by norm_num) cosAt_four_mem (by norm_num) (by norm_num)
    (by norm_num)

theorem cosAt_six_mem : cosAt 6 ∈ Set.Icc (0.3826834323 : ℝ) 0.3826834324 :=
  cosAt_mem_of_double (w := 12) (by norm_num) (by norm_num)
    (cosAt_mem_of_supplement (by norm_num) cosAt_four_mem) (by norm_num) (by norm_num) (by norm_num)

theorem cosAt_one_mem : cosAt 1 ∈ Set.Icc (0.98078528 : ℝ) 0.98078528045 :=
  cosAt_mem_of_double (w := 2) (by norm_num) (by norm_num) cosAt_two_mem (by norm_num) (by norm_num)
    (by norm_num)

theorem cosAt_seven_mem : cosAt 7 ∈ Set.Icc (0.1950903218 : ℝ) 0.1950903221 :=
  cosAt_mem_of_double (w := 14) (by norm_num) (by norm_num)
    (cosAt_mem_of_supplement (by norm_num) cosAt_two_mem) (by norm_num) (by norm_num) (by norm_num)

theorem cosAt_three_mem : cosAt 3 ∈ Set.Icc (0.8314696122 : ℝ) 0.8314696124 :=
  cosAt_mem_of_double (w := 6) (by norm_num) (by norm_num) cosAt_six_mem (by norm_num) (by norm_num)
    (by norm_num)

theorem cosAt_five_mem : cosAt 5 ∈ Set.Icc (0.5555702329 : ℝ) 0.5555702331 :=
  cosAt_mem_of_double (w := 10) (by norm_num) (by norm_num)
    (cosAt_mem_of_supplement (by norm_num) cosAt_six_mem) (by norm_num) (by norm_num) (by norm_num)

/-! ### The constants `G(j)` -/

theorem half_cosAt_near {j : Int} {w : Word} {g : Int} {a b : ℝ} (hw : dec32 w = g * 2 ^ 122)
    (h : cosAt j ∈ Set.Icc a b) (ha : (g : ℝ) / 2 ^ 26 - 1 / 2 ^ 25 ≤ a) (hb : b ≤ g / 2 ^ 26 + 1 / 2 ^ 25) :
    |(dec32 w : ℝ) / 2 ^ 149 - cosAt j / 2| ≤ 1 / 2 ^ 26 := by
  rw [hw, units_div]
  exact abs_le.2 ⟨by linarith [h.2], by linarith [h.1]⟩

theorem gWord_near {j : Nat} (h1 : 1 ≤ j) (h7 : j ≤ 7) :
    |(dec32 (gWord j) : ℝ) / 2 ^ 149 - cosAt j / 2| ≤ 1 / 2 ^ 26 := by
  interval_cases j
  · exact half_cosAt_near (g := 16454846 * 4) (by decide +kernel) cosAt_one_mem (by norm_num) (by norm_num)
  · exact half_cosAt_near (g := 15500126 * 4) (by decide +kernel) cosAt_two_mem (by norm_num) (by norm_num)
  · exact half_cosAt_near (g := 13949745 * 4) (by decide +kernel) cosAt_three_mem (by norm_num) (by norm_num)
  · exact half_cosAt_near (g := 11863283 * 4) (by decide +kernel) cosAt_four_mem (by norm_num) (by norm_num)
  · exact half_cosAt_near (g := 9320922 * 4) (by decide +kernel) cosAt_five_mem (by norm_num) (by norm_num)
  · exact half_cosAt_near (g := 12840725 * 2) (by decide +kernel) cosAt_six_mem (by norm_num) (by norm_num)
  · exact half_cosAt_near (g := 13092290) (by decide +kernel) cosAt_seven_mem (by norm_num) (by norm_num)

/-! ### The table and the real kernel -/

/-- `K(k, n)`, the orthonormal DCT-II (R113). -/
noncomputable def realKernel (k n : Fin 8) : ℝ :=
  (if k = 0 then 1 / (2 * Real.sqrt 2) else 1 / 2) * Real.cos ((2 * (n.val : ℝ) + 1) * k.val * Real.pi / 16)

/-- The entry with sign and index `j` of the table, over the reals. -/
noncomputable def tableCos (j : Int) : ℝ := if j < 0 then -cosAt j.natAbs else cosAt j.natAbs

theorem coefIndex_range : ∀ k n : Fin 8, 1 ≤ coefIndex[k][n].natAbs ∧ coefIndex[k][n].natAbs ≤ 7 := by decide

theorem coefIndex_zero : ∀ n : Fin 8, coefIndex[(0 : Fin 8)][n] = 4 := by decide

/-- The table reduces the angle `(2n+1)k` to the first quadrant: a negative index stands for the angle half a turn
on. -/
theorem coefIndex_angle : ∀ k n : Fin 8, k ≠ 0 →
    let m : Int := (2 * n.val + 1) * k.val
    let j := coefIndex[k][n]
    let p := if j < 0 then j + 16 else j
    (m - p) % 32 = 0 ∨ (m + p) % 32 = 0 := by decide

theorem tableCos_eq (j : Int) : tableCos j = cosAt (if j < 0 then j + 16 else j) := by
  unfold tableCos
  split
  · next hneg => rw [cosAt_add_sixteen, ← cosAt_neg j, ← Int.ofNat_natAbs_of_nonpos hneg.le]
  · next hpos => rw [Int.natAbs_of_nonneg (not_lt.1 hpos)]

theorem cosAt_four : cosAt 4 = Real.sqrt 2 / 2 := by
  rw [cosAt, ← Real.cos_pi_div_four]
  congr 1
  push_cast
  ring

/-- The table is right: each entry names the cosine of the kernel. -/
theorem realKernel_eq (k n : Fin 8) : realKernel k n = tableCos coefIndex[k][n] / 2 := by
  unfold realKernel
  split
  · next hk =>
    subst hk
    have hsqrt : Real.sqrt 2 ≠ 0 := by positivity
    rw [coefIndex_zero, tableCos_eq, if_neg (by decide), cosAt_four]
    simp only [Fin.val_zero, Nat.cast_zero, mul_zero, zero_mul, zero_div, Real.cos_zero, mul_one]
    field_simp
    norm_num
  · next hk =>
    rw [tableCos_eq, ← cosAt_eq_of_emod (coefIndex_angle k n hk), cosAt]
    push_cast
    ring

theorem coef_near (k n : Fin 8) : |(coef k n : ℝ) / 2 ^ 149 - realKernel k n| ≤ 1 / 2 ^ 26 := by
  obtain ⟨h1, h7⟩ := coefIndex_range k n
  have hnear := gWord_near h1 h7
  rw [realKernel_eq, tableCos, coef]
  split
  · rw [← abs_neg]
    convert hnear using 2
    push_cast
    ring
  · exact hnear

theorem approximates_row (k : Fin 8) : Approximates (fun n => coef k n) fun n => realKernel k n :=
  ⟨gain_row k, coef_near k⟩

theorem approximates_col (n : Fin 8) : Approximates (fun k => coef k n) fun k => realKernel k n :=
  ⟨gain_col n, fun k => coef_near k n⟩

theorem forward_error {X Y : Block} {A : ℝ} (hX : ∀ r c, |(at8 X r c : ℝ)| ≤ A) (h : IsForward X Y) (u v : Fin 8) :
    |(at8 Y u v : ℝ) - ∑ r : Fin 8, ∑ c : Fin 8, realKernel u r * realKernel v c * (at8 X r c : ℝ)| ≤
      A / 2 ^ 19 + 2 ^ 9 := by
  obtain ⟨T, hT, hY⟩ := h
  have herror := (approximates_row u).two_pass_error (approximates_row v) (x := fun r c => at8 X r c) hX
    (fun r => hT r v) (hY u v)
  simpa only [Finset.mul_sum, mul_assoc] using herror

theorem inverse_error {Y X : Block} {A : ℝ} (hY : ∀ u v, |(at8 Y u v : ℝ)| ≤ A) (h : IsInverse Y X) (r c : Fin 8) :
    |(at8 X r c : ℝ) - ∑ u : Fin 8, ∑ v : Fin 8, realKernel u r * realKernel v c * (at8 Y u v : ℝ)| ≤
      A / 2 ^ 19 + 2 ^ 9 := by
  obtain ⟨T, hT, hX⟩ := h
  have herror := (approximates_col c).two_pass_error (approximates_col r) (x := fun v u => at8 Y u v)
    (fun v u => hY u v) (fun v => hT r v) (hX r c)
  rw [Finset.sum_comm]
  simpa only [Finset.mul_sum, mul_assoc, mul_left_comm (realKernel _ r)] using herror

/-- Settles O42: the stated kernel is `realKernel`. -/
theorem transformAccuracy : Obligations.TransformAccuracy := by
  intro K hK X Y A hA
  have hkernel : K = realKernel := funext fun k => funext fun n => hK k n
  have hbound : ∀ r c, |(at8 X r c : ℝ)| ≤ A := fun r c => by exact_mod_cast abs_at8_le hA r c
  rw [hkernel]
  exact ⟨forward_error hbound, inverse_error hbound⟩

end Sys2Proof.Machine
end

section
/-!
Block load and store (`42_block_io.md`): the fields the addresses are formed from, the selectors of LDB and STB,
and what FMEM holds after the 64 bytes of a block are stored. That no byte of a block is stored twice is
`State.ea_inj`, which the block check gives its bounds.
-/

namespace Sys2Proof.Machine

/-! ### The geometry and the cursor, as numbers (`10_state.md` R31, R32) -/

theorem State.width_eq (s : State) : s.width = s.dim.toNat % 2 ^ 16 := by
  rw [State.width, extractLsb'_toNat_eq, pow_zero, Nat.div_one]

theorem State.height_eq (s : State) : s.height = s.dim.toNat / 2 ^ 16 := by
  rw [State.height, extractLsb'_toNat_eq, Nat.mod_eq_of_lt (by omega)]

theorem State.curBx_eq (s : State) : s.curBx = s.cur.toNat % 2 ^ 13 := by
  rw [State.curBx, extractLsb'_toNat_eq, pow_zero, Nat.div_one]

theorem State.curBy_eq (s : State) : s.curBy = s.cur.toNat / 2 ^ 16 % 2 ^ 13 := extractLsb'_toNat_eq s.cur 16 13

theorem State.curCh_eq (s : State) : s.curCh = s.cur.toNat / 2 ^ 30 := by
  rw [State.curCh, extractLsb'_toNat_eq, Nat.mod_eq_of_lt (by omega)]

/-! ### The address of an element, by its row and column in the block (`42_block_io.md` R140) -/

theorem State.ea_of_row_col (s : State) (k : Fin 4) (ch row col : Nat) {r c : Fin 8} {e : Fin 64}
    (he : e.val = 8 * r.val + c.val) :
    s.ea k ch row col e = s.fb[k].toNat + (ch * s.height + 8 * row + r) * s.width + 8 * col + c := by
  have hrow : e.val / 8 = r := by omega
  have hcol : e.val % 8 = c := by omega
  rw [State.ea, State.addr, State.slotBase, hrow, hcol]
  simp only [add_assoc]

/-- Settles O23: the fields are bit slices, and element `8r + c` is the sample `r` rows down and `c` columns right
of its block's first. -/
theorem effectiveAddress : Obligations.EffectiveAddress := fun s =>
  ⟨⟨s.width_eq, s.height_eq⟩, ⟨s.curBx_eq, s.curBy_eq, s.curCh_eq⟩, fun _ _ _ _ => rfl,
    fun k ch row col _ _ _ he => s.ea_of_row_col k ch row col he⟩

/-! ### The selectors of LDB and STB -/

/-- A frame slot is selected as a block register is: by a number below 4 (`30_encoding.md` R82). -/
theorem slotSel_eq_blockSel : slotSel = blockSel := rfl

theorem two_selectors_illegal {x y : Sel} (h : ¬ (x.toNat < 4 ∧ y.toNat < 4))
    (f : Fin 4 → Fin 4 → Except FaultCode State) :
    (do let i ← blockSel x; let j ← blockSel y; f i j) = .error .illegal := by
  by_cases hx : x.toNat < 4
  · exact except_bind_error.2 (.inr ⟨_, blockSel_eq hx,
      except_bind_error.2 (.inl (blockSel_illegal fun hy => h ⟨hx, hy⟩))⟩)
  · exact except_bind_error.2 (.inl (blockSel_illegal hx))

theorem exec_ldb_illegal {rd fs : Sel} (h : ¬ (rd.toNat < 4 ∧ fs.toNat < 4)) (s : State) :
    exec (.ldb rd fs) s = .next (faultOf s .illegal) := by
  change execLdb rd fs s = _
  rw [execLdb, slotSel_eq_blockSel, two_selectors_illegal h]
  rfl

theorem exec_stb_illegal {fd rs : Sel} (h : ¬ (fd.toNat < 4 ∧ rs.toNat < 4)) (s : State) :
    exec (.stb fd rs) s = .next (faultOf s .illegal) := by
  change execStb fd rs s = _
  rw [execStb, slotSel_eq_blockSel, two_selectors_illegal h]
  rfl

theorem exec_ldb_sel (d k : Fin 4) (s : State) :
    exec (.ldb (sel d) (sel k)) s = s.conclude (do
      s.blockCheck k
      .ok (blockWritten s d (samplesAt s k s.curCh s.curBy s.curBx))) := by
  change execLdb (sel d) (sel k) s = _
  rw [execLdb, blockSel_sel, slotSel_sel, ← State.loadBlock_eq_samplesAt]
  rfl

theorem exec_stb_sel (k a : Fin 4) (s : State) :
    exec (.stb (sel k) (sel a)) s = s.conclude (do
      let X ← s.srcBlock a
      s.blockCheck k
      .ok { s with fmem := Memory.writeAll s.fmem (s.storeCells k s.curCh s.curBy s.curBx X) }) := by
  change execStb (sel k) (sel a) s = _
  rw [execStb, slotSel_sel, blockSel_sel]
  rfl

/-! ### LDB -/

/-- Settles O24: the selectors, then the block check; a block that passes it is loaded. -/
theorem ldbOutcome : Obligations.LdbOutcome := by
  intro s
  refine ⟨fun rd fs hsel => exec_ldb_illegal hsel s, fun d k => ?_⟩
  rw [exec_ldb_sel]
  refine ⟨fun hcur => ?_, fun hcur hfit => ?_, fun hcur hfit => ?_⟩
  · rw [State.blockCheck_geom hcur]
    rfl
  · rw [State.blockCheck_fmem hcur hfit]
    rfl
  · rw [State.blockCheck_pass hcur hfit]
    rfl

/-! ### FMEM after a block is stored (`42_block_io.md` R143) -/

theorem State.mem_storeCells {s : State} {k : Fin 4} {ch row col : Nat} {X : Block} {c : Host.Cell} :
    c ∈ s.storeCells k ch row col X ↔ ∃ e : Fin 64, c = (s.ea k ch row col e, toU8 X[e]) := by
  simp [State.storeCells, eq_comm]

/-- The elements of a full block lie at 64 addresses, so each reads back as it was stored. -/
theorem State.read_storeCells {s : State} (hwf : Memory.wf s.fmem = true) {row col : Nat}
    (hrow : 8 * row + 8 ≤ s.height) (hcol : 8 * col + 8 ≤ s.width) (k : Fin 4) (ch : Nat) (X : Block) (e : Fin 64) :
    Memory.read (Memory.writeAll s.fmem (s.storeCells k ch row col X)) (s.ea k ch row col e) = toU8 X[e] := by
  refine Memory.read_writeAll_mem hwf _ _ _ (State.mem_storeCells.2 ⟨e, rfl⟩) fun c hc haddr => ?_
  obtain ⟨e', rfl⟩ := State.mem_storeCells.1 hc
  obtain ⟨-, -, -, rfl⟩ := State.ea_inj hrow hcol hrow hcol haddr
  rfl

theorem State.read_storeCells_other {s : State} (hwf : Memory.wf s.fmem = true) {k : Fin 4} {ch row col b : Nat}
    (hb : ∀ e : Fin 64, b ≠ s.ea k ch row col e) (X : Block) :
    Memory.read (Memory.writeAll s.fmem (s.storeCells k ch row col X)) b = Memory.read s.fmem b := by
  refine Memory.read_writeAll_other hwf _ _ fun c hc => ?_
  obtain ⟨e, rfl⟩ := State.mem_storeCells.1 hc
  exact (hb e).symm

/-! ### STB -/

theorem getElem_valuesOf (s : State) (a : Fin 4) (e : Fin 64) : (valuesOf s a)[e] = dec32 s.br[a][e] := by
  simp [valuesOf]

/-- Settles O25: the selectors, the source, then the block check; a block that passes them is stored. -/
theorem stbOutcome : Obligations.StbOutcome := by
  intro s
  refine ⟨fun fd rs hsel => exec_stb_illegal hsel s, fun k a => ?_⟩
  rw [exec_stb_sel]
  refine ⟨fun hv => ?_, fun hv hfin => ?_, fun hv hfin hcur => ?_, fun hv hfin hcur hfit => ?_,
    fun hv hfin hcur hfit hwf => ?_⟩
  · rw [State.srcBlock_uninit hv]
    rfl
  · rw [State.srcBlock_num hv hfin]
    rfl
  · rw [State.srcBlock_values hv hfin, State.blockCheck_geom hcur]
    rfl
  · rw [State.srcBlock_values hv hfin, State.blockCheck_fmem hcur hfit]
    rfl
  · rw [State.srcBlock_values hv hfin, State.blockCheck_pass hcur hfit]
    obtain ⟨-, -, -, hcol, hrow⟩ := hcur
    refine ⟨_, rfl, Memory.wf_writeAll _ hwf, fun e => ?_, fun b hb => State.read_storeCells_other hwf hb _⟩
    rw [State.read_storeCells hwf hrow hcol, getElem_valuesOf]

end Sys2Proof.Machine
end

section
/-!
The base-layer frame command (`43_base_frame.md`): the checks of BASEF in their order, the results of its blocks, and
what FMEM holds after them, which is `State.read_frame`.
-/

namespace Sys2Proof.Machine

/-! ### The checks of BASEF -/

theorem exec_basef_illegal {fd fs qk : Sel} (h : ¬ (fd.toNat < 4 ∧ fs.toNat < 4 ∧ qk.toNat < 2)) (s : State) :
    exec (.basef fd fs qk) s = .next (faultOf s .illegal) := by
  change execBasef fd fs qk s = _
  rw [execBasef]
  by_cases hslots : fd.toNat < 4 ∧ fs.toNat < 4
  · obtain ⟨hd, hk⟩ := hslots
    rw [slotSel_eq hd, slotSel_eq hk, matrixSel_illegal fun hq => h ⟨hd, hk, hq⟩]
    rfl
  · rw [slotSel_eq_blockSel, two_selectors_illegal hslots]
    rfl

theorem exec_basef_sel (d k : Fin 4) (q : Fin 2) (s : State) :
    exec (.basef (sel d) (sel k) (sel q)) s = s.conclude (do
      let M ← s.matrix q
      s.frameCheck d [k]
      let rs ← settled (s.baseResults k M)
      .ok { s with
        fmem := Memory.writeAll s.fmem (s.edgeCells d k ++ s.frameCells d rs)
        status := edgeWarned s }) := by
  change execBasef (sel d) (sel k) (sel q) s = _
  rw [execBasef, slotSel_sel, slotSel_sel, matrixSel_sel]
  rfl

/-- Past the checks only an overflow is left to fault. -/
theorem exec_basef_checked {s : State} {d k : Fin 4} {q : Fin 2} (hM : MatrixReady s q) (hframe : FrameOk s d [k]) :
    exec (.basef (sel d) (sel k) (sel q)) s = s.conclude (do
      let rs ← settled (s.baseResults k (entriesOf s q))
      .ok { s with
        fmem := Memory.writeAll s.fmem (s.edgeCells d k ++ s.frameCells d rs)
        status := edgeWarned s }) := by
  rw [exec_basef_sel, State.matrix_entries hM, State.frameCheck_iff_frameOk.2 hframe]
  rfl

/-! ### The results of a list of blocks -/

theorem mem_settleList_map {α β : Type} {l : List α} {f : α → Option β} {ys : List β}
    (h : settleList (l.map f) = some ys) {y : β} : y ∈ ys ↔ ∃ p ∈ l, f p = some y := by
  rw [← List.mem_map, settleList_eq_some.1 h, List.mem_map_of_injective (Option.some_injective β)]

/-- A full block has one reconstruction. -/
theorem IsBaseBlock.unique {M X Z Z' : Block} (h : IsBaseBlock M X Z) (h' : IsBaseBlock M X Z') : Z = Z' :=
  Option.some.inj ((basePath_iff_isBaseBlock.2 h).symm.trans (basePath_iff_isBaseBlock.2 h'))

theorem basePath_eq_none_iff {M X : Block} : basePath M X = none ↔ ¬ ∃ Z, IsBaseBlock M X Z := by
  simp only [Option.eq_none_iff_forall_ne_some, ne_eq, basePath_iff_isBaseBlock, not_exists]

section
variable {s : State} {k : Fin 4} {M : Block}

theorem State.baseResults_eq (s : State) (k : Fin 4) (M : Block) :
    s.baseResults k M = settleList (s.blockWalk.map fun p =>
      (basePath M (samplesAt s k p.ch p.row p.col)).map (Prod.mk p)) := by
  unfold State.baseResults
  congr 2
  funext p
  rw [State.loadBlock_eq_samplesAt]
  cases basePath M (samplesAt s k p.ch p.row p.col) <;> rfl

theorem State.baseResults_eq_none (h : ∃ ch row col, IsFullBlock s ch row col ∧
    ¬ ∃ Z, IsBaseBlock M (samplesAt s k ch row col) Z) : s.baseResults k M = none := by
  obtain ⟨ch, row, col, hfull, hover⟩ := h
  rw [State.baseResults_eq]
  refine settleList_map_none ⟨⟨ch, row, col⟩, State.mem_blockWalk.2 hfull, ?_⟩
  rw [basePath_eq_none_iff.2 hover, Option.map_none]

theorem State.exists_baseResults (h : ∀ ch row col, IsFullBlock s ch row col →
    ∃ Z, IsBaseBlock M (samplesAt s k ch row col) Z) : ∃ rs, s.baseResults k M = some rs := by
  rw [State.baseResults_eq]
  obtain ⟨rs, hrs, -⟩ := settleList_map_some (l := s.blockWalk)
    (f := fun p => (basePath M (samplesAt s k p.ch p.row p.col)).map (Prod.mk p)) fun p hp => by
      obtain ⟨Z, hZ⟩ := h _ _ _ (State.mem_blockWalk.1 hp)
      rw [basePath_iff_isBaseBlock.2 hZ]
      rfl
  exact ⟨rs, hrs⟩

/-- The results are the reconstructions of the full blocks, and of nothing else. -/
theorem State.mem_baseResults {rs : List (BlockPos × Block)} (h : s.baseResults k M = some rs)
    {p : BlockPos} {Z : Block} :
    (p, Z) ∈ rs ↔ IsFullBlock s p.ch p.row p.col ∧ IsBaseBlock M (samplesAt s k p.ch p.row p.col) Z := by
  rw [State.baseResults_eq] at h
  rw [mem_settleList_map h, ← State.mem_blockWalk, ← basePath_iff_isBaseBlock]
  constructor
  · rintro ⟨p', hp', hres⟩
    obtain ⟨Z', hZ', heq⟩ := Option.map_eq_some_iff.1 hres
    cases heq
    exact ⟨hp', hZ'⟩
  · rintro ⟨hp, hZ⟩
    exact ⟨p, hp, by rw [hZ, Option.map_some]⟩

end

/-! ### BASEF -/

/-- Settles O26: the selectors, the matrix, the frame checks and the overflow, each past the one before; then FMEM
after the writes of the edge samples and of the results. -/
theorem basefOutcome : Obligations.BasefOutcome := by
  intro s
  refine ⟨fun fd fs qk hsel => exec_basef_illegal hsel s, fun d k q => ⟨fun hM => ?_, fun hM hgeom => ?_,
    fun hM hw hh hframe => ?_, fun hM hframe hover => ?_, fun hM hframe hwf hall => ?_⟩⟩
  · rw [exec_basef_sel, State.matrix_qm hM]
    rfl
  · rw [exec_basef_sel, State.matrix_entries hM, State.frameCheck_geom hgeom]
    rfl
  · rw [exec_basef_sel, State.matrix_entries hM, State.frameCheck_fmem hw hh hframe]
    rfl
  · rw [exec_basef_checked hM hframe, State.baseResults_eq_none hover]
    rfl
  · obtain ⟨rs, hrs⟩ := State.exists_baseResults hall
    have hunique : ∀ r ∈ rs, ∀ r' ∈ rs, r.1 = r'.1 → r = r' := by
      rintro ⟨p, Z⟩ hr ⟨p', Z'⟩ hr' rfl
      obtain ⟨-, hZ⟩ := (State.mem_baseResults hrs).1 hr
      obtain ⟨-, hZ'⟩ := (State.mem_baseResults hrs).1 hr'
      rw [hZ.unique hZ']
    obtain ⟨hedge, hblocks, hother⟩ := State.read_frame (d := d) (src := k) hwf (State.baseResults_mem hrs) hunique
    refine ⟨_, ?_, Memory.wf_writeAll _ hwf, hedge, fun ch row col Z hfull hZ =>
      hblocks (⟨ch, row, col⟩, Z) ((State.mem_baseResults hrs).2 ⟨hfull, hZ⟩), hother⟩
    rw [exec_basef_checked hM hframe, hrs]
    rfl

end Sys2Proof.Machine
end

section
/-!
The magnitudes along the block path (`43_base_frame.md` R153). Only the quotients of QUANT need the bound on the
matrix: a level times the entry it was divided by is within four times the coefficient again, however large the entry.
-/

namespace Sys2Proof.Machine

/-! ### Quantizing and dequantizing -/

/-- What is no further from `y` than 0 is at most twice `y`. -/
theorem abs_le_two_mul_of_near {x y : Int} (h : |x - y| ≤ |y|) : |x| ≤ 2 * |y| := by
  have := abs_sub_abs_le_abs_sub x y
  omega

theorem abs_mul_le_of_fl32 {num v : Int} {den : Nat} (hd : 0 < den) (h : fl32 num den = some v) :
    |v * den| ≤ 2 * |num| := by
  have hnear := fl32_nearest (w := 0) hd h (inF32_ofInteger (n := 0) (by omega))
  rw [zero_mul, zero_sub, abs_neg] at hnear
  exact abs_le_two_mul_of_near hnear

theorem abs_rneDiv_mul_le (num : Int) {den : Nat} (hd : 0 < den) : |rneDiv num den * den| ≤ 2 * |num| := by
  have hnear := rneDiv_nearest num 0 hd
  rw [zero_mul, zero_sub, abs_neg] at hnear
  exact abs_le_two_mul_of_near hnear

/-- A block from results given by element. -/
theorem exists_block_of_elements {P : Fin 64 → Int → Prop} (h : ∀ e, ∃ v, P e v) :
    ∃ Y : Block, ∀ e : Fin 64, P e Y[e] := by
  choose g hg using h
  exact ⟨Vector.ofFn g, fun e => by simpa using hg e⟩

/-- A quotient by an entry of at least `2^-100` is at most `2^100` times the coefficient. -/
theorem exists_quotient {y m : Int} {b : Nat} (hy : |y| ≤ b) (hm : 2 ^ 49 ≤ m)
    (hb : 2 ^ 100 * b < 2 ^ 127 * 2 ^ 149) : ∃ t, fl32 (y * 2 ^ 149) m.toNat = some t := by
  have hquot : |y * 2 ^ 149| ≤ (2 ^ 100 * b : Nat) * (m.toNat : Int) := by
    rw [abs_mul, abs_of_pos (by positivity : (0 : Int) < 2 ^ 149), Int.toNat_of_nonneg (by omega)]
    calc |y| * 2 ^ 149 ≤ b * (2 ^ 100 * m) := mul_le_mul hy (by omega) (by positivity) (by positivity)
      _ = (2 ^ 100 * b : Nat) * m := by push_cast; ring
  exact exists_fl32 (by omega) hquot hb

theorem exists_isQuant {Y M : Block} {b : Nat} (hY : ∀ e : Fin 64, |Y[e]| ≤ b)
    (hM : ∀ e : Fin 64, (2 : Int) ^ 49 ≤ M[e]) (hb : 2 ^ 100 * b < 2 ^ 127 * 2 ^ 149) : ∃ Q, IsQuant Y M Q := by
  choose t ht using fun e : Fin 64 => exists_quotient (hY e) (hM e) hb
  exact ⟨Vector.ofFn fun e => rneDiv (t e) (2 ^ 149) * 2 ^ 149, fun e => ⟨t e, ht e, by simp⟩⟩

/-- A level times its entry is at most four times the coefficient. -/
theorem IsQuant.abs_mul_le {Y M Q : Block} (h : IsQuant Y M Q) {e : Fin 64} (hM : 0 < M[e]) :
    |Q[e] * M[e]| ≤ 4 * |Y[e]| * 2 ^ 149 := by
  obtain ⟨t, ht, hQ⟩ := h e
  have hlevel : |Q[e]| ≤ 2 * |t| := by
    rw [hQ]
    exact abs_rneDiv_mul_le t (den := 2 ^ 149) (by positivity)
  have hquot := abs_mul_le_of_fl32 (by omega) ht
  rw [Int.toNat_of_nonneg hM.le, abs_mul t, abs_of_pos hM, abs_mul,
    abs_of_pos (by positivity : (0 : Int) < 2 ^ 149)] at hquot
  rw [abs_mul, abs_of_pos hM]
  calc |Q[e]| * M[e] ≤ 2 * |t| * M[e] := mul_le_mul_of_nonneg_right hlevel hM.le
    _ ≤ 4 * |Y[e]| * 2 ^ 149 := by linarith

section
variable {Y M Q : Block} {b : Nat} (hY : ∀ e : Fin 64, |Y[e]| ≤ b) (hM : ∀ e : Fin 64, 0 < M[e]) (hQ : IsQuant Y M Q)
include hY hM hQ

theorem IsQuant.abs_mul_le_bound (e : Fin 64) : |Q[e] * M[e]| ≤ (4 * b : Nat) * (2 ^ 149 : Nat) := by
  have hle := hQ.abs_mul_le (hM e)
  have hYe := hY e
  push_cast
  omega

theorem IsQuant.exists_isDequant (hb : 4 * b < 2 ^ 127 * 2 ^ 149) : ∃ D, IsDequant Q M D :=
  exists_block_of_elements fun e => exists_fl32 (by positivity) (hQ.abs_mul_le_bound hY hM e) hb

theorem IsQuant.abs_dequant_le {D : Block} (hD : IsDequant Q M D) (e : Fin 64) : |D[e]| ≤ (8 * b : Nat) := by
  have := abs_le_of_fl32 (by positivity) (hD e) (hQ.abs_mul_le_bound hY hM e)
  omega

end

/-! ### The path of one block -/

theorem abs_le_of_isInverse {Y X : Block} {b : Nat} (hY : ∀ e : Fin 64, |Y[e]| ≤ b) (h : IsInverse Y X)
    (e : Fin 64) : |X[e]| ≤ (36 * b : Nat) := by
  obtain ⟨T, hT, hX⟩ := h
  have hT6 : ∀ r v, |at8 T r v| ≤ (6 * b : Nat) := fun r v =>
    (gain_col r).dot_le (fun n => abs_at8_le hY n v) (hT r v)
  have hX36 := (gain_col (colOf e)).dot_le (hT6 (rowOf e)) (hX (rowOf e) (colOf e))
  rw [getElem_eq_at8]
  omega

theorem entries_pos {M : Block} (hM : ∀ e : Fin 64, (2 : Int) ^ 49 ≤ M[e]) (e : Fin 64) : 0 < M[e] :=
  lt_of_lt_of_le (by positivity) (hM e)

theorem exists_isBaseBlock {M X : Block} {b : Nat} (hX : ∀ e : Fin 64, |X[e]| ≤ b)
    (hM : ∀ e : Fin 64, (2 : Int) ^ 49 ≤ M[e]) (hb : 2 ^ 106 * b < 2 ^ 127 * 2 ^ 149) :
    ∃ Z, IsBaseBlock M X Z := by
  obtain ⟨Y, hY⟩ := exists_isForward hX (by omega)
  have hYb := abs_le_of_isForward hX hY
  obtain ⟨Q, hQ⟩ := exists_isQuant hYb hM (by omega)
  obtain ⟨D, hD⟩ := hQ.exists_isDequant hYb (entries_pos hM) (by omega)
  obtain ⟨Z, hZ⟩ := exists_isInverse (hQ.abs_dequant_le hYb (entries_pos hM) hD) (by omega)
  exact ⟨Z, Y, Q, D, hY, hQ, hD, hZ⟩

/-- Each transform grows a block at most 36 times, quantizing and dequantizing at most 8 times. -/
theorem abs_le_of_isBaseBlock {M X Z : Block} {b : Nat} (hX : ∀ e : Fin 64, |X[e]| ≤ b)
    (hM : ∀ e : Fin 64, 0 < M[e]) (h : IsBaseBlock M X Z) (e : Fin 64) : |Z[e]| ≤ (36 * 8 * 36 * b : Nat) := by
  obtain ⟨Y, Q, D, hY, hQ, hD, hZ⟩ := h
  have := abs_le_of_isInverse (hQ.abs_dequant_le (abs_le_of_isForward hX hY) hM hD) hZ e
  omega

/-- The enhancement layer is the block path on the residual, added to the base. -/
theorem exists_isEnhancedBlock_of_isBaseBlock {M O B R F E : Block} (hR : IsDifference O B R)
    (hF : IsBaseBlock M R F) (hE : IsSum B F E) : ∃ Q, IsEnhancedBlock M O B Q E := by
  obtain ⟨Y, Q, D, hY, hQ, hD, hF⟩ := hF
  exact ⟨Q, R, Y, D, F, hR, hY, hQ, hD, hF, hE⟩

theorem exists_isEnhancedBlock {M O B : Block} {b : Nat} (hO : ∀ e : Fin 64, |O[e]| ≤ b)
    (hB : ∀ e : Fin 64, |B[e]| ≤ b) (hM : ∀ e : Fin 64, (2 : Int) ^ 49 ≤ M[e])
    (hb : 2 ^ 108 * b < 2 ^ 127 * 2 ^ 149) : ∃ Q E, IsEnhancedBlock M O B Q E := by
  have hdiff : ∀ e : Fin 64, |O[e] - B[e]| ≤ (2 * b : Nat) * (1 : Nat) := fun e => by
    have := abs_sub O[e] B[e]
    have := hO e
    have := hB e
    omega
  obtain ⟨R, hR⟩ : ∃ R, IsDifference O B R :=
    exists_block_of_elements fun e => exists_fl32 one_pos (hdiff e) (by omega)
  have hRb : ∀ e : Fin 64, |R[e]| ≤ (4 * b : Nat) := fun e => by
    have := abs_le_of_fl32 one_pos (hR e) (hdiff e)
    omega
  obtain ⟨F, hF⟩ := exists_isBaseBlock hRb hM (by omega)
  have hsum : ∀ e : Fin 64, |B[e] + F[e]| ≤ (2 ^ 17 * b : Nat) * (1 : Nat) := fun e => by
    have := abs_add_le B[e] F[e]
    have := hB e
    have := abs_le_of_isBaseBlock hRb (entries_pos hM) hF e
    omega
  obtain ⟨E, hE⟩ : ∃ E, IsSum B F E :=
    exists_block_of_elements fun e => exists_fl32 one_pos (hsum e) (by omega)
  obtain ⟨Q, hQ⟩ := exists_isEnhancedBlock_of_isBaseBlock hR hF hE
  exact ⟨Q, E, hQ⟩

/-! ### ENHF past its checks -/

theorem exec_enhf_sel (d o b : Fin 4) (q : Fin 2) (s : State) :
    exec (.enhf (sel d) (sel o) (sel b) (sel q)) s = s.conclude (do
      let M ← s.matrix q
      s.frameCheck d [o, b]
      let rs ← settled (s.enhResults o b M)
      .ok { s with
        fmem := Memory.writeAll s.fmem (s.edgeCells d o ++ s.frameCells d (rs.map fun r => (r.1, r.2.2)))
        bdepth := s.enhDepth rs
        status := edgeWarned s }) := by
  change execEnhf (sel d) (sel o) (sel b) (sel q) s = _
  rw [execEnhf, slotSel_sel, slotSel_sel, slotSel_sel, matrixSel_sel]
  rfl

theorem exec_enhf_checked {s : State} {d o b : Fin 4} {q : Fin 2} (hM : MatrixReady s q)
    (hframe : FrameOk s d [o, b]) :
    exec (.enhf (sel d) (sel o) (sel b) (sel q)) s = s.conclude (do
      let rs ← settled (s.enhResults o b (entriesOf s q))
      .ok { s with
        fmem := Memory.writeAll s.fmem (s.edgeCells d o ++ s.frameCells d (rs.map fun r => (r.1, r.2.2)))
        bdepth := s.enhDepth rs
        status := edgeWarned s }) := by
  rw [exec_enhf_sel, State.matrix_entries hM, State.frameCheck_iff_frameOk.2 hframe]
  rfl

theorem State.enhResults_eq (s : State) (o b : Fin 4) (M : Block) :
    s.enhResults o b M = settleList (s.blockWalk.map fun p =>
      (enhPath M (samplesAt s o p.ch p.row p.col) (samplesAt s b p.ch p.row p.col)).map (Prod.mk p)) := by
  unfold State.enhResults
  congr 2
  funext p
  rw [State.loadBlock_eq_samplesAt, State.loadBlock_eq_samplesAt]
  cases enhPath M (samplesAt s o p.ch p.row p.col) (samplesAt s b p.ch p.row p.col) <;> rfl

theorem State.exists_enhResults {s : State} {o b : Fin 4} {M : Block}
    (h : ∀ ch row col, IsFullBlock s ch row col →
      ∃ Q E, IsEnhancedBlock M (samplesAt s o ch row col) (samplesAt s b ch row col) Q E) :
    ∃ rs, s.enhResults o b M = some rs := by
  rw [State.enhResults_eq]
  obtain ⟨rs, hrs, -⟩ := settleList_map_some (l := s.blockWalk)
    (f := fun p => (enhPath M (samplesAt s o p.ch p.row p.col) (samplesAt s b p.ch p.row p.col)).map (Prod.mk p))
    fun p hp => by
      obtain ⟨Q, E, henh⟩ := h _ _ _ (State.mem_blockWalk.1 hp)
      rw [enhPath_iff_isEnhancedBlock.2 henh]
      rfl
  exact ⟨rs, hrs⟩

/-! ### Frames of samples -/

theorem abs_samplesAt_le (s : State) (k : Fin 4) (ch row col : Nat) (e : Fin 64) :
    |(samplesAt s k ch row col)[e]| ≤ (255 * 2 ^ 149 : Nat) := by
  simp only [samplesAt, Fin.getElem_fin, Vector.getElem_ofFn]
  exact abs_sample_le (by omega)

/-- Settles O29: no block of samples overflows, so past its checks each command completes. -/
theorem ordinaryMatricesNeverOverflow : Obligations.OrdinaryMatricesNeverOverflow := by
  intro s d o b q hM hentries
  have hbound : ∀ e : Fin 64, (2 : Int) ^ 49 ≤ (entriesOf s q)[e] := by simpa [entriesOf] using hentries
  refine ⟨fun hframe => ?_, fun hframe => ?_⟩
  · obtain ⟨rs, hrs⟩ := State.exists_baseResults fun ch row col _ =>
      exists_isBaseBlock (abs_samplesAt_le s o ch row col) hbound (by omega)
    rw [exec_basef_checked hM hframe, hrs]
    exact ⟨_, rfl, rfl, rfl, rfl⟩
  · obtain ⟨rs, hrs⟩ := State.exists_enhResults fun ch row col _ =>
      exists_isEnhancedBlock (abs_samplesAt_le s o ch row col) (abs_samplesAt_le s b ch row col) hbound (by omega)
    rw [exec_enhf_checked hM hframe, hrs]
    exact ⟨_, rfl, rfl, rfl, rfl⟩

end Sys2Proof.Machine
end

section
/-!
The outcomes of the residual arithmetic (`44_residual_enh.md` R160, R161, R166). SUB and ADD have two block sources,
whose checks are settled once, in their order, for any computation `f` that answers exactly a relation `R`.
-/

namespace Sys2Proof.Machine

/-! ### Commands with two block sources -/

theorem three_selectors_illegal {x y z : Sel} (h : ¬ (x.toNat < 4 ∧ y.toNat < 4 ∧ z.toNat < 4))
    (f : Fin 4 → Fin 4 → Fin 4 → Except FaultCode State) :
    (do let i ← blockSel x; let j ← blockSel y; let k ← blockSel z; f i j k) = .error .illegal := by
  by_cases hx : x.toNat < 4
  · exact except_bind_error.2 (.inr ⟨_, blockSel_eq hx, two_selectors_illegal (fun hyz => h ⟨hx, hyz⟩) _⟩)
  · exact except_bind_error.2 (.inl (blockSel_illegal hx))

theorem State.binaryBlock_illegal {rd ra rb : Sel} (h : ¬ (rd.toNat < 4 ∧ ra.toNat < 4 ∧ rb.toNat < 4))
    (s : State) (f : Block → Block → Option Block) : s.binaryBlock rd ra rb f = .error .illegal :=
  three_selectors_illegal h _

theorem State.binaryBlock_sel (s : State) (d a b : Fin 4) (f : Block → Block → Option Block) :
    s.binaryBlock (sel d) (sel a) (sel b) f = (do
      let X ← s.srcBlock a
      let Z ← s.srcBlock b
      let Y ← settled (f X Z)
      .ok (s.writeBlock d Y)) := by
  unfold State.binaryBlock
  rw [blockSel_sel, blockSel_sel, blockSel_sel]
  rfl

/-- Past the checks of both sources only an overflow is left to fault. -/
theorem State.binaryBlock_checked {s : State} {a b : Fin 4} (ha : AllValid s a) (hfa : AllFinite s a)
    (hb : AllValid s b) (hfb : AllFinite s b) (d : Fin 4) (f : Block → Block → Option Block) :
    s.binaryBlock (sel d) (sel a) (sel b) f = (do
      let Y ← settled (f (valuesOf s a) (valuesOf s b))
      .ok (s.writeBlock d Y)) := by
  rw [State.binaryBlock_sel, State.srcBlock_values ha hfa, State.srcBlock_values hb hfb]
  rfl

/-- The outcomes of a command with two block sources, `ra` checked completely before `rb` (`60_exceptions.md`
R213). -/
theorem State.binaryBlock_outcome {f : Block → Block → Option Block} {R : Block → Block → Block → Prop}
    (hf : ∀ X Z Y, f X Z = some Y ↔ R X Z Y) (s : State) :
    (∀ rd ra rb : Sel, ¬ (rd.toNat < 4 ∧ ra.toNat < 4 ∧ rb.toNat < 4) →
      s.conclude (s.binaryBlock rd ra rb f) = .next (faultOf s .illegal)) ∧
    ∀ d a b : Fin 4,
      (¬ AllValid s a → s.conclude (s.binaryBlock (sel d) (sel a) (sel b) f) = .next (faultOf s .uninit)) ∧
      (AllValid s a → ¬ AllFinite s a →
        s.conclude (s.binaryBlock (sel d) (sel a) (sel b) f) = .next (faultOf s .num)) ∧
      (AllValid s a → AllFinite s a → ¬ AllValid s b →
        s.conclude (s.binaryBlock (sel d) (sel a) (sel b) f) = .next (faultOf s .uninit)) ∧
      (AllValid s a → AllFinite s a → AllValid s b → ¬ AllFinite s b →
        s.conclude (s.binaryBlock (sel d) (sel a) (sel b) f) = .next (faultOf s .num)) ∧
      (AllValid s a → AllFinite s a → AllValid s b → AllFinite s b →
        (¬ ∃ Y, R (valuesOf s a) (valuesOf s b) Y) →
        s.conclude (s.binaryBlock (sel d) (sel a) (sel b) f) = .next (faultOf s .num)) ∧
      (∀ Y, AllValid s a → AllFinite s a → AllValid s b → AllFinite s b →
        R (valuesOf s a) (valuesOf s b) Y →
        s.conclude (s.binaryBlock (sel d) (sel a) (sel b) f) = .next (endOf (blockWritten s d Y))) := by
  refine ⟨fun rd ra rb hsel => ?_, fun d a b => ⟨fun ha => ?_, fun ha hfa => ?_, fun ha hfa hb => ?_,
    fun ha hfa hb hfb => ?_, fun ha hfa hb hfb hnone => ?_, fun Y ha hfa hb hfb hY => ?_⟩⟩
  · rw [State.binaryBlock_illegal hsel, State.conclude_error, State.takeFault_eq_faultOf]
  · rw [State.binaryBlock_sel, State.srcBlock_uninit ha]
    rfl
  · rw [State.binaryBlock_sel, State.srcBlock_num ha hfa]
    rfl
  · rw [State.binaryBlock_sel, State.srcBlock_values ha hfa, State.srcBlock_uninit hb]
    rfl
  · rw [State.binaryBlock_sel, State.srcBlock_values ha hfa, State.srcBlock_num hb hfb]
    rfl
  · have hover : f (valuesOf s a) (valuesOf s b) = none :=
      Option.eq_none_iff_forall_ne_some.2 fun Y hY => hnone ⟨Y, (hf _ _ _).1 hY⟩
    rw [State.binaryBlock_checked ha hfa hb hfb, hover]
    rfl
  · rw [State.binaryBlock_checked ha hfa hb hfb, (hf _ _ _).2 hY]
    rfl

/-- Settles O19: SUB computes the differences rounded once. -/
theorem subOutcome : Obligations.SubOutcome := fun s =>
  s.binaryBlock_outcome fun _ _ _ => subBlock_iff_isDifference

/-- Settles O20: ADD computes the sums rounded once. -/
theorem addOutcome : Obligations.AddOutcome := fun s =>
  s.binaryBlock_outcome fun _ _ _ => addBlock_iff_isSum

/-! ### BITDEP -/

theorem exec_bitdep_sel (a : Fin 4) (s : State) :
    exec (.bitdep (sel a)) s = s.conclude (do
      let X ← s.srcBlock a
      .ok { s with bdepth := BitVec.ofInt 32 (bitdepth X) }) := by
  change execBitdep (sel a) s = _
  rw [execBitdep, blockSel_sel]
  rfl

/-- Settles O21: the selector, then the source; the estimate of its values is written to `BDEPTH`. -/
theorem bitdepOutcome : Obligations.BitdepOutcome := by
  intro s
  refine ⟨fun ra hsel => ?_, fun a => ?_⟩
  · change execBitdep ra s = _
    rw [execBitdep, blockSel_illegal hsel]
    rfl
  · rw [exec_bitdep_sel]
    refine ⟨fun hv => ?_, fun hv hfin => ?_, fun hv hfin => ?_⟩
    · rw [State.srcBlock_uninit hv]
      rfl
    · rw [State.srcBlock_num hv hfin]
      rfl
    · rw [State.srcBlock_values hv hfin]
      rfl

end Sys2Proof.Machine
end

section
/-!
The bit-depth estimate (`44_residual_enh.md` R164) counts the bits of the largest magnitude: `maxMagnitude` bounds the
elements and, unless it is 0, is one of them; in units of `2^-149` the estimate is one more than its logarithm less 149.
-/

namespace Sys2Proof.Machine

/-! ### The largest magnitude of a block -/

theorem le_foldl_max_natAbs (l : List Int) (m : Nat) :
    m ≤ l.foldl (fun m x => max m x.natAbs) m ∧ ∀ x ∈ l, x.natAbs ≤ l.foldl (fun m x => max m x.natAbs) m := by
  induction l generalizing m with
  | nil => exact ⟨le_rfl, nofun⟩
  | cons y l ih =>
    obtain ⟨hstart, hrest⟩ := ih (max m y.natAbs)
    refine ⟨(le_max_left _ _).trans hstart, fun x hx => ?_⟩
    rcases List.mem_cons.1 hx with rfl | hx
    · exact (le_max_right _ _).trans hstart
    · exact hrest x hx

theorem natAbs_le_maxMagnitude (X : Block) (e : Fin 64) : X[e].natAbs ≤ maxMagnitude X := by
  refine (le_foldl_max_natAbs X.toList 0).2 _ ?_
  simp

/-- The largest magnitude is an element's, unless it is 0. -/
theorem exists_maxMagnitude_le {X : Block} (h : maxMagnitude X ≠ 0) :
    ∃ e : Fin 64, maxMagnitude X ≤ X[e].natAbs := by
  by_contra! hlt
  refine lt_irrefl (maxMagnitude X) (foldl_max_natAbs_lt (Nat.pos_of_ne_zero h) fun x hx => ?_)
  obtain ⟨i, hi, rfl⟩ := List.getElem_of_mem hx
  simpa using hlt ⟨i, by simpa using hi⟩

theorem maxMagnitude_eq_zero_iff {X : Block} : maxMagnitude X = 0 ↔ ∀ e : Fin 64, X[e] = 0 := by
  refine ⟨fun h e => ?_, fun h => ?_⟩
  · have := natAbs_le_maxMagnitude X e
    omega
  · by_contra hne
    obtain ⟨e, he⟩ := exists_maxMagnitude_le hne
    rw [h e] at he
    omega

/-! ### The estimate -/

theorem bitdepth_of_zero {X : Block} (h : ∀ e : Fin 64, X[e] = 0) : bitdepth X = 0 :=
  if_pos (maxMagnitude_eq_zero_iff.2 h)

theorem bitdepth_of_ne_zero {X : Block} (h : maxMagnitude X ≠ 0) : bitdepth X = (maxMagnitude X).log2 - 148 := by
  rw [bitdepth, if_neg h]
  ring

/-- Settles O22: the logarithm of the largest magnitude brackets it between two powers of 2; the bound 128 is that of
`BDEPTH`'s range. -/
theorem bitdepthCountsTheLargestMagnitude : Obligations.BitdepthCountsTheLargestMagnitude := by
  intro X
  refine ⟨bitdepth_of_zero, fun ⟨e, he⟩ => ?_, fun hX => (bitdepth_range fun e => (inF32_iff.1 (hX e)).1).2⟩
  have hne : maxMagnitude X ≠ 0 := fun h => he (maxMagnitude_eq_zero_iff.1 h e)
  have hlow : (bitdepth X + 148).toNat = (maxMagnitude X).log2 := by rw [bitdepth_of_ne_zero hne]; omega
  have hhigh : (bitdepth X + 149).toNat = (maxMagnitude X).log2 + 1 := by rw [bitdepth_of_ne_zero hne]; omega
  rw [hlow, hhigh]
  refine ⟨by rw [bitdepth_of_ne_zero hne]; omega, ?_, fun e => ?_⟩
  · obtain ⟨e, he⟩ := exists_maxMagnitude_le hne
    exact ⟨e, (Nat.log2_self_le hne).trans he⟩
  · exact (natAbs_le_maxMagnitude X e).trans_lt Nat.lt_log2_self

end Sys2Proof.Machine
end

section
/-!
The enhancement frame command (`44_residual_enh.md` R170, R171, R165): the checks of ENHF in their order, the results
of its blocks in walk order, and `BDEPTH`, which the last of them gives. FMEM after it is `State.read_frame`.
-/

namespace Sys2Proof.Machine

theorem exec_enhf_illegal {fd fo fb qk : Sel}
    (h : ¬ (fd.toNat < 4 ∧ fo.toNat < 4 ∧ fb.toNat < 4 ∧ qk.toNat < 2)) (s : State) :
    exec (.enhf fd fo fb qk) s = .next (faultOf s .illegal) := by
  change execEnhf fd fo fb qk s = _
  rw [execEnhf]
  by_cases hslots : fd.toNat < 4 ∧ fo.toNat < 4 ∧ fb.toNat < 4
  · obtain ⟨hd, ho, hb⟩ := hslots
    rw [slotSel_eq hd, slotSel_eq ho, slotSel_eq hb, matrixSel_illegal fun hq => h ⟨hd, ho, hb, hq⟩]
    rfl
  · rw [slotSel_eq_blockSel, three_selectors_illegal hslots]
    rfl

/-! ### The results of the full blocks -/

/-- A full block has one reconstruction, with one block of levels. -/
theorem IsEnhancedBlock.unique {M O B Q E Q' E' : Block} (h : IsEnhancedBlock M O B Q E)
    (h' : IsEnhancedBlock M O B Q' E') : Q = Q' ∧ E = E' :=
  Prod.mk.inj (Option.some.inj
    ((enhPath_iff_isEnhancedBlock.2 h).symm.trans (enhPath_iff_isEnhancedBlock.2 h')))

theorem enhPath_eq_none_iff {M O B : Block} : enhPath M O B = none ↔ ¬ ∃ Q E, IsEnhancedBlock M O B Q E := by
  simp only [Option.eq_none_iff_forall_ne_some, ne_eq, Prod.forall, enhPath_iff_isEnhancedBlock, not_exists]

/-- Results paired with their positions settle in the order of the positions. -/
theorem map_fst_of_settleList {α β : Type} {l : List α} {g : α → Option β} {ys : List (α × β)}
    (h : settleList (l.map fun p => (g p).map (Prod.mk p)) = some ys) : ys.map Prod.fst = l := by
  rw [settleList_eq_some] at h
  induction l generalizing ys with
  | nil => rw [List.map_eq_nil_iff.1 h.symm, List.map_nil]
  | cons p l ih =>
    obtain ⟨y, zs, rfl, hy, hzs⟩ := List.map_eq_cons_iff.1 h.symm
    obtain ⟨z, -, rfl⟩ := Option.map_eq_some_iff.1 hy.symm
    rw [List.map_cons, ih hzs.symm]

section
variable {s : State} {o b : Fin 4} {M : Block} {rs : List (BlockPos × Block × Block)}

theorem State.enhResults_eq_none (h : ∃ ch row col, IsFullBlock s ch row col ∧
    ¬ ∃ Q E, IsEnhancedBlock M (samplesAt s o ch row col) (samplesAt s b ch row col) Q E) :
    s.enhResults o b M = none := by
  obtain ⟨ch, row, col, hfull, hover⟩ := h
  rw [State.enhResults_eq]
  refine settleList_map_none ⟨⟨ch, row, col⟩, State.mem_blockWalk.2 hfull, ?_⟩
  rw [enhPath_eq_none_iff.2 hover, Option.map_none]

/-- The results are the reconstructions of the full blocks, and of nothing else. -/
theorem State.mem_enhResults (h : s.enhResults o b M = some rs) {p : BlockPos} {Q E : Block} :
    (p, Q, E) ∈ rs ↔ IsFullBlock s p.ch p.row p.col ∧
      IsEnhancedBlock M (samplesAt s o p.ch p.row p.col) (samplesAt s b p.ch p.row p.col) Q E := by
  rw [State.enhResults_eq] at h
  rw [mem_settleList_map h, ← State.mem_blockWalk, ← enhPath_iff_isEnhancedBlock]
  constructor
  · rintro ⟨p', hp', hres⟩
    obtain ⟨⟨Q', E'⟩, henh, heq⟩ := Option.map_eq_some_iff.1 hres
    cases heq
    exact ⟨hp', henh⟩
  · rintro ⟨hp, henh⟩
    exact ⟨p, hp, by rw [henh, Option.map_some]⟩

/-- The results stand in walk order. -/
theorem State.map_fst_enhResults (h : s.enhResults o b M = some rs) : rs.map Prod.fst = s.blockWalk := by
  rw [State.enhResults_eq] at h
  exact map_fst_of_settleList h

/-- `BDEPTH` is kept when the frame has no full block. -/
theorem State.enhDepth_of_no_block (h : s.enhResults o b M = some rs) (hsize : s.width < 8 ∨ s.height < 8) :
    s.enhDepth rs = s.bdepth := by
  have hnil : rs = [] := by
    rw [← List.map_eq_nil_iff (f := Prod.fst), State.map_fst_enhResults h, State.blockWalk_eq_nil hsize]
  rw [hnil]
  rfl

/-- `BDEPTH` is the estimate of the levels of the last full block of channel 2. -/
theorem State.enhDepth_of_last_block (h : s.enhResults o b M = some rs) (hw : 8 ≤ s.width) (hh : 8 ≤ s.height)
    {Q E : Block}
    (henh : IsEnhancedBlock M (samplesAt s o 2 (s.height / 8 - 1) (s.width / 8 - 1))
      (samplesAt s b 2 (s.height / 8 - 1) (s.width / 8 - 1)) Q E) :
    s.enhDepth rs = BitVec.ofInt 32 (bitdepth Q) := by
  have hlast := State.blockWalk_getLast? hw hh
  rw [← State.map_fst_enhResults h, List.getLast?_map] at hlast
  obtain ⟨⟨p, Q', E'⟩, hr, rfl⟩ := Option.map_eq_some_iff.1 hlast
  obtain ⟨-, henh'⟩ := (State.mem_enhResults h).1 (List.mem_of_getLast? hr)
  obtain ⟨rfl, -⟩ := henh.unique henh'
  rw [State.enhDepth, hr]

/-- What FMEM holds after ENHF, block by block. -/
theorem State.read_enhResults {d : Fin 4} (hwf : Memory.wf s.fmem = true) (h : s.enhResults o b M = some rs) :
    let m := Memory.writeAll s.fmem (s.edgeCells d o ++ s.frameCells d (rs.map fun r => (r.1, r.2.2)))
    (∀ ch y x, IsEdgeSample s ch y x →
      Memory.read m (s.addr d ch y x) = Memory.read s.fmem (s.addr o ch y x)) ∧
    (∀ ch row col Q E, IsFullBlock s ch row col →
      IsEnhancedBlock M (samplesAt s o ch row col) (samplesAt s b ch row col) Q E →
      ∀ e : Fin 64, Memory.read m (s.ea d ch row col e) = toU8 E[e]) ∧
    ∀ a, (a < s.fb[d].toNat ∨ s.fb[d].toNat + 3 * s.width * s.height ≤ a) →
      Memory.read m a = Memory.read s.fmem a := by
  have hmem : ∀ {p : BlockPos} {E : Block}, (p, E) ∈ rs.map (fun r => (r.1, r.2.2)) ↔ ∃ Q, (p, Q, E) ∈ rs := by
    simp
  have hunique : ∀ r ∈ rs.map (fun r => (r.1, r.2.2)), ∀ r' ∈ rs.map (fun r => (r.1, r.2.2)),
      r.1 = r'.1 → r = r' := by
    rintro ⟨p, E⟩ hr ⟨p', E'⟩ hr' rfl
    obtain ⟨Q, hr⟩ := hmem.1 hr
    obtain ⟨Q', hr'⟩ := hmem.1 hr'
    obtain ⟨-, henh⟩ := (State.mem_enhResults h).1 hr
    obtain ⟨-, henh'⟩ := (State.mem_enhResults h).1 hr'
    obtain ⟨-, rfl⟩ := henh.unique henh'
    rfl
  have hwalk : ∀ r ∈ rs.map (fun r => (r.1, r.2.2)), r.1 ∈ s.blockWalk := by
    rintro ⟨p, E⟩ hr
    obtain ⟨Q, hr⟩ := hmem.1 hr
    exact State.mem_blockWalk.2 ((State.mem_enhResults h).1 hr).1
  obtain ⟨hedge, hblocks, hother⟩ := State.read_frame (d := d) (src := o) hwf hwalk hunique
  exact ⟨hedge, fun ch row col Q E hfull henh => hblocks (⟨ch, row, col⟩, E)
    (hmem.2 ⟨Q, (State.mem_enhResults h).2 ⟨hfull, henh⟩⟩), hother⟩

end

/-! ### ENHF -/

/-- Settles O27: the selectors, the matrix, the frame checks and the overflow, each past the one before; then FMEM
and `BDEPTH` after the results. -/
theorem enhfOutcome : Obligations.EnhfOutcome := by
  intro s
  refine ⟨fun fd fo fb qk hsel => exec_enhf_illegal hsel s, fun d o b q => ⟨fun hM => ?_, fun hM hgeom => ?_,
    fun hM hw hh hframe => ?_, fun hM hframe hover => ?_, fun hM hframe hwf hall => ?_⟩⟩
  · rw [exec_enhf_sel, State.matrix_qm hM]
    rfl
  · rw [exec_enhf_sel, State.matrix_entries hM, State.frameCheck_geom hgeom]
    rfl
  · rw [exec_enhf_sel, State.matrix_entries hM, State.frameCheck_fmem hw hh hframe]
    rfl
  · rw [exec_enhf_checked hM hframe, State.enhResults_eq_none hover]
    rfl
  · obtain ⟨rs, hrs⟩ := State.exists_enhResults hall
    obtain ⟨hedge, hblocks, hother⟩ := State.read_enhResults (d := d) hwf hrs
    refine ⟨_, s.enhDepth rs, ?_, Memory.wf_writeAll _ hwf, hedge, hblocks, hother, State.enhDepth_of_no_block hrs,
      fun hw hh Q E => State.enhDepth_of_last_block hrs hw hh⟩
    rw [exec_enhf_checked hM hframe, hrs]
    rfl

end Sys2Proof.Machine
end

section
/-!
The residual identity (`44_residual_enh.md` R162): the residual of equal samples is 0, every stage of the block path
keeps the zero block, and adding it to the base rounds nothing. Every byte of a frame is an edge sample or an element
of a full block, so ENHF of equal frames copies the base.
-/

namespace Sys2Proof.Machine

/-! ### The zero residual -/

theorem quantLane_zero (m : Int) : quantLane 0 m = some 0 := by
  have hround : rneInt 0 = 0 := by
    simpa only [rneInt, zero_mul] using rneDiv_exact 0 one32_pos
  simp only [quantLane, zero_mul, fl32_zero, hround, ofInteger]

/-- The zero block reconstructs to itself. -/
theorem zero_stages (M : Block) :
    IsForward (Vector.replicate 64 0) (Block.dcOnly 0) ∧ IsQuant (Block.dcOnly 0) M (Block.dcOnly 0) ∧
      IsDequant (Block.dcOnly 0) M (Block.dcOnly 0) ∧ IsInverse (Block.dcOnly 0) (Vector.replicate 64 0) := by
  refine ⟨isForward_constant (t := 0) ?_ ?_, isQuant_dcOnly (quantLane_zero _), isDequant_dcOnly ?_,
    isInverse_dcOnly (t := 0) ?_ ?_⟩ <;> simp only [mul_zero, zero_mul, fl32_zero]

theorem fl32_one_exact {v : Int} (hv : inF32 v = true) : fl32 v 1 = some v := by
  simpa using fl32_exact (den := 1) one_pos hv

/-- A block of members of `F32` enhanced by itself is itself, with levels 0. -/
theorem isEnhancedBlock_self (M : Block) {X : Block} (hX : X.InF32) : IsEnhancedBlock M X X (Block.dcOnly 0) X := by
  obtain ⟨hforward, hquant, hdequant, hinverse⟩ := zero_stages M
  refine ⟨_, _, _, _, fun e => ?_, hforward, hquant, hdequant, hinverse, fun e => ?_⟩
  · simp only [sub_self, fl32_zero, Fin.getElem_fin, Vector.getElem_replicate]
  · simpa using fl32_one_exact (hX e)

theorem bitdepth_dcOnly_zero : bitdepth (Block.dcOnly 0) = 0 :=
  bitdepth_of_zero fun e => by rw [getElem_dcOnly, ite_self]

/-! ### Samples and their bytes -/

theorem getElem_samplesAt (s : State) (k : Fin 4) (ch row col : Nat) (e : Fin 64) :
    (samplesAt s k ch row col)[e] = fromU8 (Memory.read s.fmem (s.ea k ch row col e)) := by
  rw [← State.loadBlock_eq_samplesAt]
  simp [State.loadBlock]

theorem samplesAt_inF32 (s : State) (k : Fin 4) (ch row col : Nat) : (samplesAt s k ch row col).InF32 := by
  rw [← State.loadBlock_eq_samplesAt]
  exact s.loadBlock_inF32 k ch row col

/-- A byte is stored as it was loaded. -/
theorem toU8_fromU8 (n : Byte) : toU8 (fromU8 n) = n := by
  refine BitVec.eq_of_toNat_eq (toU8_of_near (by omega) ?_)
  rw [fromU8, ofInteger, one32_cast, sub_self]
  norm_num

/-! ### The bytes of a frame -/

theorem State.addr_eq (s : State) (k : Fin 4) (ch y x : Nat) :
    s.addr k ch y x = s.fb[k].toNat + ((ch * s.height + y) * s.width + x) := Nat.add_assoc _ _ _

/-- Every byte of a slot is a sample of its frame. -/
theorem State.exists_sample {s : State} {j : Nat} (hj : j < 3 * s.width * s.height) :
    ∃ ch y x, ch < 3 ∧ y < s.height ∧ x < s.width ∧ ∀ k : Fin 4, s.fb[k].toNat + j = s.addr k ch y x := by
  have hw : 0 < s.width := Nat.pos_of_ne_zero fun h => by simp [h] at hj
  have hh : 0 < s.height := Nat.pos_of_ne_zero fun h => by simp [h] at hj
  have hline : j / s.width < 3 * s.height := Nat.div_lt_of_lt_mul (by rwa [mul_left_comm, ← mul_assoc])
  refine ⟨j / s.width / s.height, j / s.width % s.height, j % s.width, Nat.div_lt_of_lt_mul (by rwa [mul_comm]),
    Nat.mod_lt _ hh, Nat.mod_lt _ hw, fun k => ?_⟩
  rw [State.addr_eq, Nat.div_add_mod', Nat.div_add_mod']

/-- Every sample of a frame is an edge sample or an element of a full block (`43_base_frame.md` R151). -/
theorem State.sample_cases {s : State} {ch y x : Nat} (hch : ch < 3) (hy : y < s.height) (hx : x < s.width) :
    IsEdgeSample s ch y x ∨ ∃ row col, ∃ e : Fin 64, IsFullBlock s ch row col ∧
      ∀ k, s.addr k ch y x = s.ea k ch row col e := by
  by_cases hedge : 8 * (s.width / 8) ≤ x ∨ 8 * (s.height / 8) ≤ y
  · exact .inl ⟨hch, hy, hx, hedge⟩
  · refine .inr ⟨y / 8, x / 8, ⟨8 * (y % 8) + x % 8, by omega⟩, ⟨hch, by omega, by omega⟩, fun k => ?_⟩
    rw [State.ea]
    congr 1 <;> dsimp only <;> omega

/-- The slots `o` and `b` hold equal bytes. -/
def EqualFrames (s : State) (o b : Fin 4) : Prop := ∀ j, j < 3 * s.width * s.height →
  Memory.read s.fmem (s.fb[o].toNat + j) = Memory.read s.fmem (s.fb[b].toNat + j)

section
variable {s : State} {o b : Fin 4} (h : EqualFrames s o b) {ch : Nat}
include h

theorem EqualFrames.read_addr {y x : Nat} (hch : ch < 3) (hy : y < s.height) (hx : x < s.width) :
    Memory.read s.fmem (s.addr o ch y x) = Memory.read s.fmem (s.addr b ch y x) := by
  have hlt := (State.addr_bounds (k := o) hch hy hx).2
  rw [State.addr_eq] at hlt
  rw [State.addr_eq, State.addr_eq]
  exact h _ (by omega)

theorem EqualFrames.samplesAt_eq {row col : Nat} (hfull : IsFullBlock s ch row col) :
    samplesAt s o ch row col = samplesAt s b ch row col := by
  obtain ⟨hch, hrow, hcol⟩ := hfull
  refine Vector.ext fun i hi => ?_
  have hread := h.read_addr hch (y := 8 * row + i / 8) (x := 8 * col + i % 8) (by omega) (by omega)
  have helem := fun k => getElem_samplesAt s k ch row col ⟨i, hi⟩
  exact (helem o).trans ((congrArg fromU8 hread).trans (helem b).symm)

/-- A full block of equal frames is the base's, with levels 0. -/
theorem EqualFrames.isEnhancedBlock {row col : Nat} (hfull : IsFullBlock s ch row col) (M : Block) :
    IsEnhancedBlock M (samplesAt s o ch row col) (samplesAt s b ch row col) (Block.dcOnly 0)
      (samplesAt s b ch row col) := by
  rw [h.samplesAt_eq hfull]
  exact isEnhancedBlock_self M (samplesAt_inF32 s b ch row col)

end

/-- Settles O28: ENHF's outcome, each byte of the destination by the kind of its sample. -/
theorem enhfOfEqualFramesCopies : Obligations.EnhfOfEqualFramesCopies := by
  intro s d o b q hM hframe hwf hequal
  have hsame : EqualFrames s o b := hequal
  obtain ⟨-, -, -, -, hok⟩ := (enhfOutcome s).2 d o b q
  obtain ⟨m, depth, hexec, -, hedge, hblocks, -, -, hdepth⟩ := hok hM hframe hwf
    fun _ _ _ hfull => ⟨_, _, hsame.isEnhancedBlock hfull _⟩
  refine ⟨_, hexec, rfl, fun j hj => ?_, fun hw hh => ?_⟩
  · change Memory.read m _ = _
    obtain ⟨ch, y, x, hch, hy, hx, haddr⟩ := State.exists_sample hj
    rw [haddr, haddr]
    rcases State.sample_cases hch hy hx with hedgy | ⟨row, col, e, hfull, helem⟩
    · rw [hedge _ _ _ hedgy, hsame.read_addr hch hy hx]
    · rw [helem, helem, hblocks _ _ _ _ _ hfull (hsame.isEnhancedBlock hfull _) e, getElem_samplesAt, toU8_fromU8]
  · change depth = 0
    rw [hdepth hw hh _ _ (hsame.isEnhancedBlock ⟨by omega, by omega, by omega⟩ _), bitdepth_dcOnly_zero]
    rfl

end Sys2Proof.Machine
end

section
/-!
The bit-depth estimate gates nothing (`44_residual_enh.md` R163): no command reads `BDEPTH`. Two states that differ in
`BDEPTH` only pass the same checks to results that differ in `BDEPTH` only; `SameButDepth` carries this through the
computation of a command, a check at a time.
-/

namespace Sys2Proof.Machine

/-- The state with another `BDEPTH`. -/
def State.withDepth (s : State) (b : Word) : State := { s with bdepth := b }

/-- Both computations fault with one code, or complete with states that differ in `BDEPTH` only. -/
inductive SameButDepth : Except FaultCode State → Except FaultCode State → Prop
  | error (c : FaultCode) : SameButDepth (.error c) (.error c)
  | ok (u : State) (b : Word) : SameButDepth (.ok u) (.ok (u.withDepth b))

theorem SameButDepth.bind {α : Type} (x : Except FaultCode α) {f g : α → Except FaultCode State}
    (h : ∀ a, SameButDepth (f a) (g a)) : SameButDepth (x >>= f) (x >>= g) := by
  cases x with
  | error c => exact .error c
  | ok a => exact h a

/-- A command that stores bytes. Stated for any bytes, so that no proof compares what a command stores. -/
theorem SameButDepth.stores (s : State) (b : Word) (m : Memory) (d d' : Word) (f : Status) :
    SameButDepth (.ok { s with fmem := m, bdepth := d, status := f })
      (.ok { s.withDepth b with fmem := m, bdepth := d', status := f }) :=
  .ok { s with fmem := m, bdepth := d, status := f } d'

/-- Both answer a next state, and the two differ in `BDEPTH` only. -/
def NextButDepth (x y : Host.Outcome State Fault Refusal) : Prop := ∃ t b, x = .next t ∧ y = .next (t.withDepth b)

theorem NextButDepth.next (t : State) (b : Word) : NextButDepth (.next t) (.next (t.withDepth b)) := ⟨t, b, rfl, rfl⟩

theorem SameButDepth.conclude {r r' : Except FaultCode State} (h : SameButDepth r r') (s : State) (b : Word) :
    NextButDepth (s.conclude r) ((s.withDepth b).conclude r') := by
  cases h with
  | error c => exact .next (s.takeFault c) b
  | ok u b' => exact .next u.complete b'

section
variable (s : State) (b : Word)

/-! ### The operands do not depend on `BDEPTH` -/

theorem State.fmem_withDepth : (s.withDepth b).fmem = s.fmem := rfl

theorem State.srcBlock_withDepth (k : Fin 4) : (s.withDepth b).srcBlock k = s.srcBlock k := rfl

theorem State.matrix_withDepth (q : Fin 2) : (s.withDepth b).matrix q = s.matrix q := rfl

theorem State.blockCheck_withDepth (k : Fin 4) : (s.withDepth b).blockCheck k = s.blockCheck k := rfl

theorem State.frameCheck_withDepth (d : Fin 4) (ks : List (Fin 4)) :
    (s.withDepth b).frameCheck d ks = s.frameCheck d ks := rfl

/-- The bytes of a block at the cursor. -/
theorem State.cursorCells_withDepth (k : Fin 4) (X : Block) :
    (s.withDepth b).storeCells k (s.withDepth b).curCh (s.withDepth b).curBy (s.withDepth b).curBx X =
      s.storeCells k s.curCh s.curBy s.curBx X := rfl

theorem State.edgeCells_withDepth (d k : Fin 4) : (s.withDepth b).edgeCells d k = s.edgeCells d k := rfl

theorem State.frameCells_withDepth (d : Fin 4) (rs : List (BlockPos × Block)) :
    (s.withDepth b).frameCells d rs = s.frameCells d rs := rfl

theorem samplesAt_withDepth (k : Fin 4) (ch row col : Nat) :
    samplesAt (s.withDepth b) k ch row col = samplesAt s k ch row col := rfl

theorem State.blockWalk_withDepth : (s.withDepth b).blockWalk = s.blockWalk := rfl

theorem State.baseResults_withDepth (k : Fin 4) (M : Block) :
    (s.withDepth b).baseResults k M = s.baseResults k M := by
  simp only [State.baseResults_eq, samplesAt_withDepth, State.blockWalk_withDepth]

theorem State.enhResults_withDepth (o k : Fin 4) (M : Block) :
    (s.withDepth b).enhResults o k M = s.enhResults o k M := by
  simp only [State.enhResults_eq, samplesAt_withDepth, State.blockWalk_withDepth]

/-! ### The commands -/

theorem State.unaryBlock_sameButDepth (rd ra : Sel) (f : Block → Option Block) :
    SameButDepth (s.unaryBlock rd ra f) ((s.withDepth b).unaryBlock rd ra f) :=
  .bind (blockSel rd) fun d => .bind (blockSel ra) fun a => .bind (s.srcBlock a) fun X =>
    .bind (settled (f X)) fun Y => .ok (s.writeBlock d Y) b

theorem State.matrixBlock_sameButDepth (rd ra qk : Sel) (f : Block → Block → Option Block) :
    SameButDepth (s.matrixBlock rd ra qk f) ((s.withDepth b).matrixBlock rd ra qk f) :=
  .bind (blockSel rd) fun d => .bind (blockSel ra) fun a => .bind (matrixSel qk) fun q =>
    .bind (s.srcBlock a) fun X => .bind (s.matrix q) fun M => .bind (settled (f X M)) fun Y =>
      .ok (s.writeBlock d Y) b

theorem State.binaryBlock_sameButDepth (rd ra rb : Sel) (f : Block → Block → Option Block) :
    SameButDepth (s.binaryBlock rd ra rb f) ((s.withDepth b).binaryBlock rd ra rb f) :=
  .bind (blockSel rd) fun d => .bind (blockSel ra) fun a => .bind (blockSel rb) fun c =>
    .bind (s.srcBlock a) fun X => .bind (s.srcBlock c) fun Z => .bind (settled (f X Z)) fun Y =>
      .ok (s.writeBlock d Y) b

theorem execBitdep_nextButDepth (ra : Sel) : NextButDepth (execBitdep ra s) (execBitdep ra (s.withDepth b)) :=
  SameButDepth.conclude (.bind (blockSel ra) fun a => .bind (s.srcBlock a) fun X =>
    .ok (s.withDepth (BitVec.ofInt 32 (bitdepth X))) _) s b

theorem execLdb_nextButDepth (rd fs : Sel) : NextButDepth (execLdb rd fs s) (execLdb rd fs (s.withDepth b)) :=
  SameButDepth.conclude (.bind (blockSel rd) fun d => .bind (slotSel fs) fun k => .bind (s.blockCheck k) fun _ =>
    .ok (s.writeBlock d (s.loadBlock k s.curCh s.curBy s.curBx)) b) s b

theorem execStb_nextButDepth (fd rs : Sel) : NextButDepth (execStb fd rs s) (execStb fd rs (s.withDepth b)) := by
  refine SameButDepth.conclude ?_ s b
  simp only [State.fmem_withDepth, State.srcBlock_withDepth, State.blockCheck_withDepth, State.cursorCells_withDepth]
  exact .bind _ fun _ => .bind _ fun _ => .bind _ fun _ => .bind _ fun _ => .stores s b _ _ _ _

theorem execQmfill_nextButDepth (qk : Sel) (scale : BitVec 16) :
    NextButDepth (execQmfill qk scale s) (execQmfill qk scale (s.withDepth b)) :=
  SameButDepth.conclude (.bind (matrixSel qk) fun k => by
    dsimp only
    split
    · exact .error .qm
    · exact .ok (s.fillMatrix k (enc32 (ofInteger scale.toNat))) b) s b

theorem execBasef_nextButDepth (fd fs qk : Sel) :
    NextButDepth (execBasef fd fs qk s) (execBasef fd fs qk (s.withDepth b)) := by
  refine SameButDepth.conclude ?_ s b
  simp only [State.fmem_withDepth, State.matrix_withDepth, State.frameCheck_withDepth, State.baseResults_withDepth,
    State.edgeCells_withDepth, State.frameCells_withDepth]
  exact .bind _ fun _ => .bind _ fun _ => .bind _ fun _ => .bind _ fun _ => .bind _ fun _ => .bind _ fun _ =>
    .stores s b _ _ _ _

theorem execEnhf_nextButDepth (fd fo fb qk : Sel) :
    NextButDepth (execEnhf fd fo fb qk s) (execEnhf fd fo fb qk (s.withDepth b)) := by
  refine SameButDepth.conclude ?_ s b
  simp only [State.fmem_withDepth, State.matrix_withDepth, State.frameCheck_withDepth, State.enhResults_withDepth,
    State.edgeCells_withDepth, State.frameCells_withDepth]
  exact .bind _ fun _ => .bind _ fun _ => .bind _ fun _ => .bind _ fun _ => .bind _ fun _ => .bind _ fun _ =>
    .bind _ fun _ => .stores s b _ _ _ _

theorem execLinit_nextButDepth : NextButDepth (execLinit s) (execLinit (s.withDepth b)) := by
  refine SameButDepth.conclude ?_ s b
  change SameButDepth _ (if s.lstat.state = .idle ∨ s.lstat.state = .closed then _ else _)
  split
  · exact .ok _ b
  · exact .error .state

theorem State.openPorts_withDepth : (s.withDepth b).openPorts = s.openPorts.withDepth b := by
  by_cases h : s.ina.present = true ∧ s.inb.present = true
  · rw [State.openPorts_present (s := s) h.1 h.2]
    exact State.openPorts_present (s := s.withDepth b) h.1 h.2
  · rw [State.openPorts_absent (s := s) h]
    exact State.openPorts_absent (s := s.withDepth b) h

theorem execLopen_nextButDepth : NextButDepth (execLopen s) (execLopen (s.withDepth b)) := by
  unfold execLopen
  rw [State.openPorts_withDepth]
  change NextButDepth _ (if s.lstat.state = .opening then _ else if s.lstat.state = .idle then _ else _)
  split
  · exact .next s.openPorts.complete b
  · split
    · exact .next { s with lstat := { s.lstat with state := .opening } } b
    · exact .next (s.takeFault .state) b

theorem State.pairStep_withDepth : (s.withDepth b).pairStep = s.pairStep.withDepth b := by
  by_cases h : s.ina.token = none ∨ s.inb.token = none
  · rw [State.pairStep_eos (s := s) h]
    exact State.pairStep_eos (s := s.withDepth b) h
  · obtain ⟨ha, hb⟩ := not_or.1 h
    obtain ⟨ta, ha⟩ := Option.ne_none_iff_exists'.1 ha
    obtain ⟨tb, hb⟩ := Option.ne_none_iff_exists'.1 hb
    rw [State.pairStep_frames (s := s) ha hb]
    exact State.pairStep_frames (s := s.withDepth b) ha hb

theorem execLstep_nextButDepth : NextButDepth (execLstep s) (execLstep (s.withDepth b)) := by
  unfold execLstep
  rw [State.pairStep_withDepth]
  change NextButDepth _ (if s.lstat.state ≠ .streaming then _ else if s.pairReady then _ else _)
  split
  · exact .next (s.takeFault .state) b
  · split
    · exact .next s.pairStep.complete b
    · exact .next s b

theorem execLrun_nextButDepth : NextButDepth (execLrun s) (execLrun (s.withDepth b)) := by
  unfold execLrun
  rw [State.pairStep_withDepth]
  change NextButDepth _ (if s.lstat.state ≠ .streaming then _ else if s.pairReady then
    (if s.pairStep.lstat.state = .closed then _ else _) else _)
  split
  · exact .next (s.takeFault .state) b
  · split
    · split
      · exact .next s.pairStep.complete b
      · exact .next s.pairStep b
    · exact .next s b

/-- No command reads `BDEPTH`. -/
theorem exec_nextButDepth (i : Instr) : NextButDepth (exec i s) (exec i (s.withDepth b)) := by
  cases i with
  | nop => exact .next s.complete b
  | clrerr => exact .next s.clearFault.complete b
  | sreset => exact .next s.resetOperation State.reset.bdepth
  | fdct => exact (s.unaryBlock_sameButDepth b _ _ _).conclude s b
  | idct => exact (s.unaryBlock_sameButDepth b _ _ _).conclude s b
  | quant => exact (s.matrixBlock_sameButDepth b _ _ _ _).conclude s b
  | dequant => exact (s.matrixBlock_sameButDepth b _ _ _ _).conclude s b
  | clip => exact (s.unaryBlock_sameButDepth b _ _ _).conclude s b
  | sub => exact (s.binaryBlock_sameButDepth b _ _ _ _).conclude s b
  | add => exact (s.binaryBlock_sameButDepth b _ _ _ _).conclude s b
  | bitdep => exact execBitdep_nextButDepth s b _
  | ldb => exact execLdb_nextButDepth s b _ _
  | stb => exact execStb_nextButDepth s b _ _
  | qmfill => exact execQmfill_nextButDepth s b _ _
  | basef => exact execBasef_nextButDepth s b _ _ _
  | enhf => exact execEnhf_nextButDepth s b _ _ _ _
  | linit => exact execLinit_nextButDepth s b
  | lopen => exact execLopen_nextButDepth s b
  | lstep => exact execLstep_nextButDepth s b
  | lrun => exact execLrun_nextButDepth s b

end

/-- Settles O60. -/
theorem depthGatesNothing : Obligations.DepthGatesNothing := fun i s b => exec_nextButDepth s b i

end Sys2Proof.Machine
end

section
/-!
The commands of the combiner (`45_combiner.md` section 2), one equation per case of each. LSTEP and LRUN differ only
after a pair-step on two Frames, so what they share is stated once for both, of a command `i` that is one of them.
-/

namespace Sys2Proof.Machine

variable {s : State} {i : Instr}

/-! ### LINIT and LOPEN -/

theorem exec_linit_clears (h : s.lstat.state = .idle ∨ s.lstat.state = .closed) :
    exec .linit s = .next (endOf
      { s with lstat := Lstat.reset, lcount := 0, inaDim := 0, inaFps := 0, inbDim := 0, inbFps := 0 }) := by
  change execLinit s = _
  rw [execLinit, if_pos h, State.conclude_ok, State.complete_eq_endOf]

theorem exec_linit_fault (h : ¬ (s.lstat.state = .idle ∨ s.lstat.state = .closed)) :
    exec .linit s = .next (faultOf s .state) := by
  change execLinit s = _
  rw [execLinit, if_neg h, State.conclude_error, State.takeFault_eq_faultOf]

/-- Settles O30: the two branches of `execLinit`. -/
theorem linitOutcome : Obligations.LinitOutcome := fun _ => ⟨exec_linit_clears, exec_linit_fault⟩

theorem exec_lopen_fault (hidle : s.lstat.state ≠ .idle) (hopening : s.lstat.state ≠ .opening) :
    exec .lopen s = .next (faultOf s .state) := by
  change execLopen s = _
  rw [execLopen, if_neg hopening, if_neg hidle, State.takeFault_eq_faultOf]

theorem exec_lopen_idle (h : s.lstat.state = .idle) :
    exec .lopen s = .next { s with lstat := { s.lstat with state := .opening } } := by
  change execLopen s = _
  rw [execLopen, if_neg (by rw [h]; nofun), if_pos h]

theorem exec_lopen_opening (h : s.lstat.state = .opening) : exec .lopen s = .next (endOf s.openPorts) := by
  change execLopen s = _
  rw [execLopen, if_pos h, State.complete_eq_endOf]

theorem State.captureMeta_present (ha : s.ina.present = true) (hb : s.inb.present = true) :
    s.captureMeta = { s with
      inaDim := s.ina.info.dimWord, inaFps := s.ina.info.fps
      inbDim := s.inb.info.dimWord, inbFps := s.inb.info.fps } := by
  simp only [State.captureMeta, ha, hb, if_true]

/-- Settles O31: the two phases, the second by whether both inputs are present. -/
theorem lopenOutcome : Obligations.LopenOutcome := by
  refine fun s => ⟨exec_lopen_fault, exec_lopen_idle, fun h ha hb => ?_, fun h habsent => ?_⟩
  · rw [exec_lopen_opening h, State.openPorts_present ha hb, State.captureMeta_present ha hb]
    rfl
  · rw [exec_lopen_opening h, State.openPorts_absent habsent]
    rfl

/-! ### The pair-step -/

theorem State.pairReady_iff : s.pairReady = true ↔ s.ina.ready = true ∧ s.inb.ready = true := Bool.and_eq_true_iff

theorem InPort.token_eq_none {p : InPort} : p.token = none ↔ p.frames.length ≤ p.pos := List.getElem?_eq_none_iff

theorem InPort.token_isNone (p : InPort) : p.token.isNone = decide (p.frames.length ≤ p.pos) := by
  rw [Bool.eq_iff_iff, Option.isNone_iff_eq_none, InPort.token_eq_none, decide_eq_true_iff]

theorem State.pairStep_eq_pairEmitted {ta tb : FrameToken} (ha : s.ina.frames[s.ina.pos]? = some ta)
    (hb : s.inb.frames[s.inb.pos]? = some tb) : s.pairStep = pairEmitted s ta tb :=
  State.pairStep_frames ha hb

theorem State.pairStep_eq_pairEnded (h : s.ina.frames.length ≤ s.ina.pos ∨ s.inb.frames.length ≤ s.inb.pos) :
    s.pairStep = pairEnded s := by
  rw [State.pairStep_eos (h.imp InPort.token_eq_none.2 InPort.token_eq_none.2), InPort.token_isNone,
    InPort.token_isNone]
  rfl

/-! ### LSTEP and LRUN -/

theorem exec_pair_fault (hi : i = .lrun ∨ i = .lstep) (h : s.lstat.state ≠ .streaming) :
    exec i s = .next (faultOf s .state) := by
  rcases hi with rfl | rfl
  · change execLrun s = _
    rw [execLrun, if_pos h, State.takeFault_eq_faultOf]
  · change execLstep s = _
    rw [execLstep, if_pos h, State.takeFault_eq_faultOf]

theorem exec_pair_hold (hi : i = .lrun ∨ i = .lstep) (h : s.lstat.state = .streaming)
    (hready : ¬ (s.ina.ready = true ∧ s.inb.ready = true)) : exec i s = .next s := by
  rw [← State.pairReady_iff] at hready
  rcases hi with rfl | rfl
  · change execLrun s = _
    rw [execLrun, if_neg (not_not.2 h), if_neg hready]
  · change execLstep s = _
    rw [execLstep, if_neg (not_not.2 h), if_neg hready]

section
variable (h : s.lstat.state = .streaming) (ha : s.ina.ready = true) (hb : s.inb.ready = true)
include h ha hb

theorem exec_lstep_pairStep : exec .lstep s = .next (endOf s.pairStep) := by
  change execLstep s = _
  rw [execLstep, if_neg (not_not.2 h), if_pos (State.pairReady_iff.2 ⟨ha, hb⟩), State.complete_eq_endOf]

theorem exec_lrun_pairStep :
    exec .lrun s = .next (if s.pairStep.lstat.state = .closed then endOf s.pairStep else s.pairStep) := by
  change execLrun s = _
  rw [execLrun, if_neg (not_not.2 h), if_pos (State.pairReady_iff.2 ⟨ha, hb⟩), State.complete_eq_endOf]
  split <;> rfl

theorem exec_lstep_pairEmitted {ta tb : FrameToken} (hta : s.ina.frames[s.ina.pos]? = some ta)
    (htb : s.inb.frames[s.inb.pos]? = some tb) : exec .lstep s = .next (endOf (pairEmitted s ta tb)) := by
  rw [exec_lstep_pairStep h ha hb, State.pairStep_eq_pairEmitted hta htb]

/-- A pair emitted leaves the run in `Streaming`, so LRUN stays pending. -/
theorem exec_lrun_pairEmitted {ta tb : FrameToken} (hta : s.ina.frames[s.ina.pos]? = some ta)
    (htb : s.inb.frames[s.inb.pos]? = some tb) : exec .lrun s = .next (pairEmitted s ta tb) := by
  have hopen : (pairEmitted s ta tb).lstat.state ≠ .closed := by
    rw [show (pairEmitted s ta tb).lstat = s.lstat from rfl, h]
    nofun
  rw [exec_lrun_pairStep h ha hb, State.pairStep_eq_pairEmitted hta htb, if_neg hopen]

/-- At the end of a stream either command ends with the run. -/
theorem exec_pair_ended (hi : i = .lrun ∨ i = .lstep)
    (heos : s.ina.frames.length ≤ s.ina.pos ∨ s.inb.frames.length ≤ s.inb.pos) :
    exec i s = .next (endOf (pairEnded s)) := by
  rcases hi with rfl | rfl
  · rw [exec_lrun_pairStep h ha hb, State.pairStep_eq_pairEnded heos]
    exact congrArg _ (if_pos rfl)
  · rw [exec_lstep_pairStep h ha hb, State.pairStep_eq_pairEnded heos]

end

/-- Settles O32: the cases of LSTEP, after two Frames at the end of its command. -/
theorem lstepOutcome : Obligations.LstepOutcome := fun _ =>
  ⟨exec_pair_fault (.inr rfl), exec_pair_hold (.inr rfl), fun _ _ h ha hb => exec_lstep_pairEmitted h ha hb,
    fun h ha hb => exec_pair_ended h ha hb (.inr rfl)⟩

/-- Settles O33: the cases of LRUN, after two Frames still pending. -/
theorem lrunOutcome : Obligations.LrunOutcome := fun _ =>
  ⟨exec_pair_fault (.inl rfl), exec_pair_hold (.inl rfl), fun _ _ h ha hb => exec_lrun_pairEmitted h ha hb,
    fun h ha hb => exec_pair_ended h ha hb (.inl rfl)⟩

end Sys2Proof.Machine
end

section
/-!
The combiner length law (`45_combiner.md` R192). `PairsEmitted s k t` says what the first `k` pairs of a run begun at
`s` leave: a pair-step on two Frames goes from `k` to `k + 1`, and with `k` the length of the shorter stream the next
pair-step ends the run. Whether a command is pending is left open, since LSTEP ends and LRUN stays.
-/

namespace Sys2Proof.Machine

variable {s t : State} {i : Instr} {k : Nat}

/-- The frames of the shorter input stream. -/
def State.pairs (s : State) : Nat := min s.ina.frames.length s.inb.frames.length

/-- `t` is a run begun at `s`, in `Streaming`, after its first `k` pairs. -/
structure PairsEmitted (s : State) (k : Nat) (t : State) : Prop where
  streaming : t.lstat.state = .streaming
  ina_frames : t.ina.frames = s.ina.frames
  inb_frames : t.inb.frames = s.inb.frames
  ina_pos : t.ina.pos = k
  inb_pos : t.inb.pos = k
  outl : t.outl.frames = s.outl.frames ++ s.ina.frames.take k
  outh : t.outh.frames = s.outh.frames ++ s.inb.frames.take k
  outf : t.outf.frames = s.outf.frames ++ s.inb.frames.take k
  lcount : t.lcount = s.lcount + BitVec.ofNat 32 k
  status : { t.status with busy := false } = { s.status with busy := false }

/-- `t` is a run begun at `s` that ended after all its pairs. -/
structure RunEnded (s t : State) : Prop where
  closed : t.lstat.state = .closed
  pend : t.pend = none
  status : t.status = { s.status with busy := false }
  outl : t.outl.frames = s.outl.frames ++ s.ina.frames.take s.pairs
  outh : t.outh.frames = s.outh.frames ++ s.inb.frames.take s.pairs
  outf : t.outf.frames = s.outf.frames ++ s.inb.frames.take s.pairs
  lcount : t.lcount = s.lcount + BitVec.ofNat 32 s.pairs
  ina_pos : t.ina.pos = s.pairs + 1
  inb_pos : t.inb.pos = s.pairs + 1
  eosa : t.lstat.eosa = decide (s.ina.frames.length ≤ s.inb.frames.length)
  eosb : t.lstat.eosb = decide (s.inb.frames.length ≤ s.ina.frames.length)

/-- The producers have set `ready` on both inputs. -/
def State.producersReady (s : State) : State :=
  { s with ina := { s.ina with ready := true }, inb := { s.inb with ready := true } }

theorem runReady_cons {rest : List Instr} (h : exec i s.producersReady = .next t) :
    runReady (i :: rest) s = runReady rest t := by
  rw [State.producersReady] at h
  simp only [runReady, h]

theorem PairsEmitted.start (h : s.lstat.state = .streaming) (ha : s.ina.pos = 0) (hb : s.inb.pos = 0) :
    PairsEmitted s 0 s where
  streaming := h
  ina_frames := rfl
  inb_frames := rfl
  ina_pos := ha
  inb_pos := hb
  outl := (List.append_nil _).symm
  outh := (List.append_nil _).symm
  outf := (List.append_nil _).symm
  lcount := (BitVec.add_zero _).symm
  status := rfl

theorem PairsEmitted.producersReady (h : PairsEmitted s k t) : PairsEmitted s k t.producersReady := { h with }

/-- The end of LSTEP does not touch the run. -/
theorem PairsEmitted.commandEnded (h : PairsEmitted s k t) : PairsEmitted s k (endOf t) := { h with }

/-- The outputs after one more Frame of a stream. -/
theorem append_take_succ {out frames : List FrameToken} {ft : FrameToken} (h : frames[k]? = some ft) :
    out ++ frames.take k ++ [ft] = out ++ frames.take (k + 1) := by
  rw [List.append_assoc, List.take_add_one, h, Option.toList_some]

/-- Two more Frames are one more pair. -/
theorem PairsEmitted.succ (h : PairsEmitted s k t) {ta tb : FrameToken} (ha : s.ina.frames[k]? = some ta)
    (hb : s.inb.frames[k]? = some tb) : PairsEmitted s (k + 1) (pairEmitted t ta tb) where
  streaming := h.streaming
  ina_frames := h.ina_frames
  inb_frames := h.inb_frames
  ina_pos := congrArg (· + 1) h.ina_pos
  inb_pos := congrArg (· + 1) h.inb_pos
  outl := (congrArg (· ++ [ta]) h.outl).trans (append_take_succ ha)
  outh := (congrArg (· ++ [tb]) h.outh).trans (append_take_succ hb)
  outf := (congrArg (· ++ [tb]) h.outf).trans (append_take_succ hb)
  lcount := by
    change t.lcount + 1 = _
    rw [h.lcount, BitVec.add_assoc, BitVec.ofNat_add]
    rfl
  status := h.status

/-- A pair-step before the end of either stream emits the next pair. -/
theorem PairsEmitted.emits (h : PairsEmitted s k t) (hi : i = .lrun ∨ i = .lstep) (hk : k < s.pairs) :
    ∃ u, exec i t.producersReady = .next u ∧ PairsEmitted s (k + 1) u := by
  have hr := h.producersReady
  obtain ⟨hka, hkb⟩ := lt_min_iff.1 hk
  obtain ⟨ta, ha⟩ : ∃ ta, s.ina.frames[k]? = some ta := ⟨_, List.getElem?_eq_getElem hka⟩
  obtain ⟨tb, hb⟩ : ∃ tb, s.inb.frames[k]? = some tb := ⟨_, List.getElem?_eq_getElem hkb⟩
  have hemit := hr.succ ha hb
  rw [← hr.ina_frames, ← hr.ina_pos] at ha
  rw [← hr.inb_frames, ← hr.inb_pos] at hb
  rcases hi with rfl | rfl
  · exact ⟨_, exec_lrun_pairEmitted hr.streaming rfl rfl ha hb, hemit⟩
  · exact ⟨_, exec_lstep_pairEmitted hr.streaming rfl rfl ha hb, hemit.commandEnded⟩

/-- After all the pairs the end of the shorter stream is met: what is left is the end of the run. -/
theorem PairsEmitted.ended (h : PairsEmitted s s.pairs t) : RunEnded s (endOf (pairEnded t)) where
  closed := rfl
  pend := rfl
  status := h.status
  outl := h.outl
  outh := h.outh
  outf := h.outf
  lcount := h.lcount
  ina_pos := congrArg (· + 1) h.ina_pos
  inb_pos := congrArg (· + 1) h.inb_pos
  eosa := by
    change decide (t.ina.frames.length ≤ t.ina.pos) = _
    rw [h.ina_frames, h.ina_pos, State.pairs, decide_eq_decide, le_min_iff, and_iff_right le_rfl]
  eosb := by
    change decide (t.inb.frames.length ≤ t.inb.pos) = _
    rw [h.inb_frames, h.inb_pos, State.pairs, decide_eq_decide, le_min_iff, and_iff_left le_rfl]

theorem PairsEmitted.ends (h : PairsEmitted s s.pairs t) (hi : i = .lrun ∨ i = .lstep) :
    ∃ u, exec i t.producersReady = .next u ∧ RunEnded s u := by
  have hr := h.producersReady
  refine ⟨_, exec_pair_ended hr.streaming rfl rfl hi ?_, hr.ended⟩
  rw [hr.ina_frames, hr.inb_frames, hr.ina_pos, hr.inb_pos]
  exact (min_choice _ _).imp Eq.ge Eq.ge

/-- The rest of a run: one command for each pair that is left, and one for the end. -/
theorem PairsEmitted.run {cmds : List Instr} (hcmds : ∀ i ∈ cmds, i = .lrun ∨ i = .lstep)
    (hlength : k + cmds.length = s.pairs + 1) (hk : k ≤ s.pairs) (h : PairsEmitted s k t) :
    ∃ u, runReady cmds t = .next u ∧ RunEnded s u := by
  induction cmds generalizing k t with
  | nil => exact absurd hlength (by simp only [List.length_nil]; omega)
  | cons i rest ih =>
    obtain ⟨hi, hrest⟩ := List.forall_mem_cons.1 hcmds
    rw [List.length_cons] at hlength
    rcases hk.eq_or_lt with rfl | hlt
    · obtain rfl : rest = [] := List.eq_nil_of_length_eq_zero (by omega)
      obtain ⟨u, hu, hended⟩ := h.ends hi
      exact ⟨u, runReady_cons hu, hended⟩
    · obtain ⟨u, hu, hnext⟩ := h.emits hi hlt
      rw [runReady_cons hu]
      exact ih hrest (by omega) hlt hnext

/-- Settles O34: a run that has emitted nothing yet emits all its pairs, then ends. -/
theorem combinerLengthLaw : Obligations.CombinerLengthLaw := by
  intro s cmds hs ha hb hcmds hlength
  obtain ⟨t, hrun, h⟩ := (PairsEmitted.start hs ha hb).run hcmds (by rw [hlength, Nat.zero_add, State.pairs])
    (Nat.zero_le _)
  exact ⟨t, hrun, h.closed, h.pend, h.status, h.outl, h.outh, h.outf, h.lcount, h.ina_pos, h.inb_pos, h.eosa,
    h.eosb⟩

end Sys2Proof.Machine
end

section
/-!
The system commands (`46_system.md` R200 to R202): NOP and CLRERR end with the status they leave, and SRESET, written
to `CMD` or run by the unit, is the reset operation with the values of the reset table (`10_state.md` R55).
-/

namespace Sys2Proof.Machine

/-! ### NOP and CLRERR -/

theorem exec_nop (s : State) : exec .nop s = .next (endOf s) := by
  change execNop s = _
  rw [execNop, State.conclude_ok, State.complete_eq_endOf]

/-- Settles O11: NOP leaves only the end of a command. -/
theorem nopOnlyEnds : Obligations.NopOnlyEnds := exec_nop

theorem exec_clrerr (s : State) : exec .clrerr s = .next (endOf s.clearFault) := by
  change execClrerr s = _
  rw [execClrerr, State.conclude_ok, State.complete_eq_endOf]

/-- CLRERR clears four fields of `STATUS`, and its end the fifth. -/
theorem Status.cleared_idle (f : Status) : f.cleared.idle = Status.reset := rfl

theorem endOf_clearFault (s : State) :
    endOf s.clearFault = { s with pend := none, errinfo := 0, status := Status.reset } := by
  rw [← State.complete_eq_endOf, State.complete, State.clearFault, Status.cleared_idle]

/-- Settles O12: the fault record cleared, then the end of a command. -/
theorem clrerrClearsTheRecord : Obligations.ClrerrClearsTheRecord := fun s =>
  (exec_clrerr s).trans (congrArg _ (endOf_clearFault s))

/-! ### SRESET -/

theorem exec_sreset (s : State) : exec .sreset s = .next s.resetOperation := by
  change execSreset s = _
  rw [execSreset]

theorem State.resetOperation_valid (s : State) (k : Fin 4) (e : Fin 64) : s.resetOperation.brv[k][e] = false := by
  simp [State.reset]

theorem State.resetOperation_matrices (s : State) (e : Fin 64) :
    s.resetOperation.qm[0][e] = Config.qm0Reset ∧ s.resetOperation.qm[1][e] = Config.qm1Reset := by
  constructor <;> simp [State.reset]

theorem State.resetOperation_slot (s : State) (k : Fin 4) : s.resetOperation.fb[k] = 0 := by
  simp [State.reset]

/-- Settles O10: the write to `CMD` and the unit's run are both the reset operation; its elements are those of the
reset table, and the rest are the state's own. -/
theorem sresetResets : Obligations.SresetResets := fun s =>
  ⟨s.resetOperation, exec_sreset s, s.hrsWrite_sreset, s.resetOperation_valid, s.resetOperation_matrices,
    s.resetOperation_dim, s.resetOperation_cur, s.resetOperation_slot, s.resetOperation_bdepth, Status.reset_word,
    s.resetOperation_errinfo, s.resetOperation_pend, Lstat.reset_word, s.resetOperation_lcount,
    s.resetOperation_inaDim, s.resetOperation_inaFps, s.resetOperation_inbDim, s.resetOperation_inbFps,
    s.resetOperation_fmem, rfl, s.resetOperation_ina, s.resetOperation_inb, s.resetOperation_outl,
    s.resetOperation_outh, s.resetOperation_outf, s.resetOperation_agenda, s.resetOperation_rdata,
    s.resetOperation_draws⟩

end Sys2Proof.Machine
end

section
/-!
Fault entry (`60_exceptions.md` R211, R214), the lock it sets on its record (R216 to R218), and that no command stops
the machine (`70_reset_and_hazards.md` R254).
-/

namespace Sys2Proof.Machine

/-! ### The fault record -/

/-- The causes of R211, in the order of its table. -/
def faultCauses : List FaultCode := [.illegal, .uninit, .num, .qm, .geom, .fmem, .state]

theorem mem_faultCauses (c : FaultCode) : c ∈ faultCauses := by
  cases c <;> decide

/-- Settles O7: the table of R211 lists each cause with its `FaultCode.code`, the code that fault entry records. -/
theorem faultEntryRecord : Obligations.FaultEntryRecord := by
  refine fun s w hp => ⟨fun c code hrow => ?_, fun c => by simpa [faultCauses] using mem_faultCauses c⟩
  have htable : (c, code) ∈ faultCauses.map fun c => (c, c.code) := hrow
  obtain ⟨_, -, heq⟩ := List.mem_map.1 htable
  cases heq
  exact State.takeFault_of_pend hp c

/-! ### The lock on the record -/

/-- In `t` a fault is recorded, with the code and the word of the record of `s`. -/
def RecordKept (s t : State) : Prop :=
  t.status.err = true ∧ t.status.errcode = s.status.errcode ∧ t.errinfo = s.errinfo

/-- No fault is recorded. -/
def RecordClear (t : State) : Prop := t.status.err = false ∧ t.status.errcode = 0 ∧ t.errinfo = 0

theorem recordClear_clearFault (s : State) : RecordClear (endOf s.clearFault) := ⟨rfl, rfl, rfl⟩

theorem recordClear_resetOperation (s : State) : RecordClear s.resetOperation := ⟨rfl, rfl, rfl⟩

theorem State.writeReg_recordKept {s : State} (herr : s.status.err = true) (r : HrsReg) (w : Word) :
    RecordKept s (s.writeReg r w) := by
  cases r <;> exact ⟨herr, rfl, rfl⟩

theorem decode_clrerrWord : decode Config.clrerrWord = .ok .clrerr := by decide

/-- Under the lock the unit does nothing, or it runs CLRERR. -/
theorem State.unitTurn_of_lock {s t : State} (hlock : s.pend = none ∨ s.pend = some Config.clrerrWord)
    (h : s.unitTurn = .next t) : t = s ∨ s.pend = some Config.clrerrWord ∧ t = endOf s.clearFault := by
  rcases hlock with hp | hp
  · rw [State.unitTurn_of_none hp] at h
    cases h
    exact .inl rfl
  · rw [State.unitTurn_of_decode hp decode_clrerrWord, exec_clrerr] at h
    cases h
    exact .inr ⟨hp, rfl⟩

/-- The unit's turn under the lock keeps the record, or clears it with CLRERR. -/
theorem State.unitTurn_record {s t : State} (herr : s.status.err = true)
    (hlock : s.pend = none ∨ s.pend = some Config.clrerrWord) (h : s.unitTurn = .next t) :
    RecordKept s t ∨ s.pend = some Config.clrerrWord ∧ RecordClear t := by
  obtain rfl | ⟨hp, rfl⟩ := State.unitTurn_of_lock hlock h
  · exact .inl ⟨herr, rfl, rfl⟩
  · exact .inr ⟨hp, recordClear_clearFault s⟩

/-- The step of the agent the agenda names keeps the record, or clears it with CLRERR or a reset. -/
theorem AgentEffect.record {s t : State} {ev : Event} {rest : List Event} (herr : s.status.err = true)
    (hlock : s.pend = none ∨ s.pend = some Config.clrerrWord) (hag : s.agenda = ev :: rest)
    (h : AgentEffect { s with agenda := rest } ev t) :
    RecordKept s t ∨ (clearsNext s ∨ resetsNext s = true) ∧ RecordClear t := by
  cases h with
  | unit hturn =>
    exact (State.unitTurn_record (s := { s with agenda := rest }) herr hlock hturn).imp id fun ⟨hp, hclear⟩ =>
      ⟨.inl ⟨hp, .inr ⟨rest, hag⟩⟩, hclear⟩
  | sreset | resetInput => exact .inr ⟨.inr (by simp [resetsNext, hag]), recordClear_resetOperation s⟩
  | register _ r w => exact .inl (State.writeReg_recordKept (s := { s with agenda := rest }) herr r w)
  | answered | discarded | hazard | accepted | byte | ports => exact .inl ⟨herr, rfl, rfl⟩

/-- Settles O55: the invariant leaves the unit nothing but CLRERR to run while a fault is recorded, and of the other
agents only a reset writes the record. -/
theorem faultRecordIsLocked : Obligations.FaultRecordIsLocked := by
  intro s t hinv herr h
  have hlock := hinv.fault_lock herr
  rcases step_cases h with ⟨hag, hturn⟩ | ⟨ev, rest, hag, heffect⟩
  · exact (State.unitTurn_record herr hlock hturn).imp id fun ⟨hp, hclear⟩ => ⟨.inl ⟨hp, .inl hag⟩, hclear⟩
  · exact heffect.record herr hlock hag

/-! ### No command stops the machine -/

section
variable (s : State)

/-- A command that completes or faults in its one step. -/
theorem State.conclude_answers (r : Except FaultCode State) : ∃ t, s.conclude r = .next t := by
  cases r with
  | ok u => exact ⟨_, s.conclude_ok u⟩
  | error c => exact ⟨_, s.conclude_error c⟩

theorem exec_lopen_answers : ∃ t, exec .lopen s = .next t := by
  by_cases hopening : s.lstat.state = .opening
  · exact ⟨_, exec_lopen_opening hopening⟩
  by_cases hidle : s.lstat.state = .idle
  · exact ⟨_, exec_lopen_idle hidle⟩
  · exact ⟨_, exec_lopen_fault hidle hopening⟩

theorem exec_pair_answers {i : Instr} (hi : i = .lrun ∨ i = .lstep) : ∃ t, exec i s = .next t := by
  by_cases hstream : s.lstat.state = .streaming
  · by_cases hready : s.ina.ready = true ∧ s.inb.ready = true
    · rcases hi with rfl | rfl
      · exact ⟨_, exec_lrun_pairStep hstream hready.1 hready.2⟩
      · exact ⟨_, exec_lstep_pairStep hstream hready.1 hready.2⟩
    · exact ⟨s, exec_pair_hold hi hstream hready⟩
  · exact ⟨_, exec_pair_fault hi hstream⟩

end

/-- Settles O8: LOPEN has two phases and a pair-step can hold; NOP, CLRERR and SRESET never fault, and every other
command completes or faults in one step. -/
theorem everyCommandAnswersNext : Obligations.EveryCommandAnswersNext := by
  intro i s
  cases i with
  | nop => exact ⟨_, exec_nop s⟩
  | clrerr => exact ⟨_, exec_clrerr s⟩
  | sreset => exact ⟨_, exec_sreset s⟩
  | lopen => exact exec_lopen_answers s
  | lstep => exact exec_pair_answers s (.inr rfl)
  | lrun => exact exec_pair_answers s (.inl rfl)
  | fdct | idct | quant | dequant | clip | sub | add | bitdep | ldb | stb | qmfill | basef | enhf | linit =>
    exact s.conclude_answers _

end Sys2Proof.Machine
end
